-- ==== Sys2Proof/Word.lean ====
section
/-! DEFINITION. The fixed widths of the block (00_scope.md R7). -/

namespace Sys2Proof

/-- A stream byte, or a byte of a buffer (00_scope.md R7). -/
abbrev Byte := BitVec 8

/-- A message identifier, body length, header sequence number or week: 16 bits (00_scope.md R7). -/
abbrev Half := BitVec 16

/-- A host data word, counter or CRC: 32 bits (00_scope.md R7). -/
abbrev Word := BitVec 32

/-- A host address: a byte offset 0x000 to 0xFFF, 12 bits (00_scope.md R7, 20_memory.md R105). -/
abbrev Offset := BitVec 12

end Sys2Proof
end

