-- ==== Sys2Proof/Syntax.lean ====
section
/-! DEFINITION. The 17 host operations of spec/opcode_table.json (30_encoding.md R143), one constructor per row. -/

namespace Sys2Proof

/-- A host operation with the operands it reads (30_encoding.md R140, R141). A byte count `n` is a natural number,
as the rules compare it (log entry 10, DESIGN CHOICE, safe); a message identifier is 16 bits, as the rules match it. -/
inductive Instr where
  /-- NOP (47_control.md R370). -/
  | nop
  /-- CRC_INIT (40_crc.md R183). -/
  | crcInit
  /-- CRC_BYTE B (40_crc.md R184). -/
  | crcByte (b : Byte)
  /-- CRC_HBUF (40_crc.md R185). -/
  | crcHbuf
  /-- CRC_TXBODY n (40_crc.md R186). -/
  | crcTxbody (n : Nat)
  /-- HDR_PACK (41_header_codec.md R203). -/
  | hdrPack
  /-- HDR_UNPACK (41_header_codec.md R204). -/
  | hdrUnpack
  /-- TX_SEND n (46_transmit.md R350). -/
  | txSend (n : Nat)
  /-- TX_ISSUE n (46_transmit.md R351). -/
  | txIssue (n : Nat)
  /-- SLOT_ARM id (44_correlator.md R310). -/
  | slotArm (msgId : Half)
  /-- SLOT_TAKE (44_correlator.md R311). -/
  | slotTake
  /-- SLOT_CANCEL (44_correlator.md R312). -/
  | slotCancel
  /-- SLOT_FLUSH (44_correlator.md R313). -/
  | slotFlush
  /-- TM_POP (45_telemetry.md R335). -/
  | tmPop
  /-- DT_LOOKUP id (43_dispatcher.md R280). -/
  | dtLookup (msgId : Half)
  /-- SCAN_RESET (47_control.md R371). -/
  | scanReset
  /-- CNT_CLEAR (47_control.md R372). -/
  | cntClear
deriving DecidableEq, Repr

end Sys2Proof
end

