-- ==== Sys2Proof/WellFormed.lean ====
section
/-! DEFINITION. Which operations an operation word can express, and which host accesses the block's interface has. -/

namespace Sys2Proof

/-- A byte count fits the 16-bit field H of the operation word (30_encoding.md R140). -/
def countFits (n : Nat) : Bool := n < 65536

/-- An operation is well-formed when an operation word can carry its operands (30_encoding.md R140). A count that fits
but exceeds TX_BODY_MAX is well-formed: the operation answers RANGE (R141). -/
def Instr.wf : Instr → Bool
  | .nop => true
  | .crcInit => true
  | .crcByte _ => true
  | .crcHbuf => true
  | .crcTxbody n => countFits n
  | .hdrPack => true
  | .hdrUnpack => true
  | .txSend n => countFits n
  | .txIssue n => countFits n
  | .slotArm _ => true
  | .slotTake => true
  | .slotCancel => true
  | .slotFlush => true
  | .tmPop => true
  | .dtLookup _ => true
  | .scanReset => true
  | .cntClear => true

/-- Every host access is a whole 32-bit word (20_memory.md R106). -/
def accessWhole (width : Nat) : Bool := width == 4

/-- ... at an offset that is a multiple of 4 (20_memory.md R106). -/
def accessAligned (off : Offset) : Bool := off.toNat % 4 == 0

/-- A host access the block's interface has (20_memory.md R106). -/
def accessOk (off : Offset) (width : Nat) : Bool := accessWhole width && accessAligned off

end Sys2Proof
end

