-- ==== Sys2Proof/Decode.lean ====
section
/-! DEFINITION. The operation word (30_encoding.md R140–R145): its fields, the decoder, total on any bytes and rejecting
by name, and the encoder. -/

namespace Sys2Proof

/-- Why bytes are no operation. -/
inductive DecodeError where
  /-- The opcode byte is not in the opcode map (30_encoding.md R144). Writing such a word to CMD is a next state. -/
  | illegalOpcode (opc : Byte)
  /-- Fewer than the four bytes of an operation word; CMD takes whole words only (20_memory.md R106). -/
  | truncated (got : Nat)
deriving DecidableEq, Repr

/-- OPC = w[7:0] (30_encoding.md R140). -/
def opcField (w : Word) : Byte := w.extractLsb' 0 8

/-- B = w[15:8] (30_encoding.md R140). -/
def byteField (w : Word) : Byte := w.extractLsb' 8 8

/-- H = w[31:16] (30_encoding.md R140). -/
def halfField (w : Word) : Half := w.extractLsb' 16 16

/-- The operation word {H, B, OPC} (30_encoding.md R140). -/
def opWord (h : Half) (b opc : Byte) : Word := h ++ b ++ opc

/-- The opcode map (30_encoding.md R143) on an operation word; an opcode outside it is illegal (R144). An operation
reads only the fields R140 gives it. DT_LOOKUP follows R140 and R143, not the word in 43_dispatcher.md R280's example (log entry 17,
DEDUCED, safe). -/
def decode (w : Word) : Except DecodeError Instr :=
  match opcField w with
  | 0x00#8 => .ok .nop
  | 0x01#8 => .ok .crcInit
  | 0x02#8 => .ok (.crcByte (byteField w))
  | 0x03#8 => .ok .crcHbuf
  | 0x04#8 => .ok (.crcTxbody (halfField w).toNat)
  | 0x10#8 => .ok .hdrPack
  | 0x11#8 => .ok .hdrUnpack
  | 0x20#8 => .ok (.txSend (halfField w).toNat)
  | 0x21#8 => .ok (.txIssue (halfField w).toNat)
  | 0x30#8 => .ok (.slotArm (halfField w))
  | 0x31#8 => .ok .slotTake
  | 0x32#8 => .ok .slotCancel
  | 0x33#8 => .ok .slotFlush
  | 0x40#8 => .ok .tmPop
  | 0x50#8 => .ok (.dtLookup (halfField w))
  | 0x60#8 => .ok .scanReset
  | 0x61#8 => .ok .cntClear
  | opc => .error (.illegalOpcode opc)

/-- A word from its four bytes, byte 0 in bits 7:0: the host byte order (20_memory.md R107). -/
def wordOfBytes (b0 b1 b2 b3 : Byte) : Word := b3 ++ b2 ++ b1 ++ b0

/-- The decoder on bytes in the host's byte order: the operation and the bytes after it. -/
def decodeBytes : List Byte → Except DecodeError (Instr × List Byte)
  | b0 :: b1 :: b2 :: b3 :: rest =>
    match decode (wordOfBytes b0 b1 b2 b3) with
    | .ok i => .ok (i, rest)
    | .error e => .error e
  | short => .error (.truncated short.length)

/-- The opcode byte of an operation (30_encoding.md R143). -/
def opcode : Instr → Byte
  | .nop => 0x00#8
  | .crcInit => 0x01#8
  | .crcByte _ => 0x02#8
  | .crcHbuf => 0x03#8
  | .crcTxbody _ => 0x04#8
  | .hdrPack => 0x10#8
  | .hdrUnpack => 0x11#8
  | .txSend _ => 0x20#8
  | .txIssue _ => 0x21#8
  | .slotArm _ => 0x30#8
  | .slotTake => 0x31#8
  | .slotCancel => 0x32#8
  | .slotFlush => 0x33#8
  | .tmPop => 0x40#8
  | .dtLookup _ => 0x50#8
  | .scanReset => 0x60#8
  | .cntClear => 0x61#8

/-- The operation word of a well-formed operation, with every unread field 0 (30_encoding.md R140, R146). -/
def encode (i : Instr) : Word :=
  match i with
  | .nop => opWord 0 0 (opcode i)
  | .crcInit => opWord 0 0 (opcode i)
  | .crcByte b => opWord 0 b (opcode i)
  | .crcHbuf => opWord 0 0 (opcode i)
  | .crcTxbody n => opWord (BitVec.ofNat 16 n) 0 (opcode i)
  | .hdrPack => opWord 0 0 (opcode i)
  | .hdrUnpack => opWord 0 0 (opcode i)
  | .txSend n => opWord (BitVec.ofNat 16 n) 0 (opcode i)
  | .txIssue n => opWord (BitVec.ofNat 16 n) 0 (opcode i)
  | .slotArm x => opWord x 0 (opcode i)
  | .slotTake => opWord 0 0 (opcode i)
  | .slotCancel => opWord 0 0 (opcode i)
  | .slotFlush => opWord 0 0 (opcode i)
  | .tmPop => opWord 0 0 (opcode i)
  | .dtLookup x => opWord x 0 (opcode i)
  | .scanReset => opWord 0 0 (opcode i)
  | .cntClear => opWord 0 0 (opcode i)

/-- The bits of the operation word that an operation reads (30_encoding.md R140): OPC always, B for CRC_BYTE only, H for
CRC_TXBODY, TX_SEND, TX_ISSUE, SLOT_ARM and DT_LOOKUP only. -/
def readMask : Instr → Word
  | .nop => 0x000000FF#32
  | .crcInit => 0x000000FF#32
  | .crcByte _ => 0x0000FFFF#32
  | .crcHbuf => 0x000000FF#32
  | .crcTxbody _ => 0xFFFF00FF#32
  | .hdrPack => 0x000000FF#32
  | .hdrUnpack => 0x000000FF#32
  | .txSend _ => 0xFFFF00FF#32
  | .txIssue _ => 0xFFFF00FF#32
  | .slotArm _ => 0xFFFF00FF#32
  | .slotTake => 0x000000FF#32
  | .slotCancel => 0x000000FF#32
  | .slotFlush => 0x000000FF#32
  | .tmPop => 0x000000FF#32
  | .dtLookup _ => 0xFFFF00FF#32
  | .scanReset => 0x000000FF#32
  | .cntClear => 0x000000FF#32

/-- The word whose bits are the low `nbits` bits of `w`, every bit above them 0. -/
def tableWord (nbits w : Nat) : Word := BitVec.ofNat 32 (w % 2 ^ nbits)

/-- The operation the decoder reads from a row's bits, laid out as four bytes in the host's byte order. -/
def decodeTableWord (nbits w : Nat) : Option Instr :=
  let v := tableWord nbits w
  match decodeBytes [v.extractLsb' 0 8, v.extractLsb' 8 8, v.extractLsb' 16 8, v.extractLsb' 24 8] with
  | .ok (i, _) => some i
  | .error _ => none

end Sys2Proof
end

