-- ==== Sys2Proof/Config.lean ====
section
/-! DEFINITION. The implementation parameters of 00_scope.md R6 as a configuration with one field each, its value on this hardware
(log entry 7, UNVERIFIED, unsafe for a block built otherwise), and the one free value of the model: whose turn comes next when no
turn has been chosen (20_memory.md R100). -/

namespace Sys2Proof

namespace Config

/-- The implementation parameters, one field each (00_scope.md R6). -/
structure Params where
  /-- CRC_POLY_R: the reflected generator polynomial. -/
  crcPolyR : Word
  /-- CRC_INIT. -/
  crcInit : Word
  /-- CRC_XOROUT. -/
  crcXorOut : Word
  /-- SYNC_RESET. -/
  syncReset : Word
  /-- RESP_OK. -/
  respOk : Word
  /-- DUAL_RESP_BIT. -/
  dualRespBit : Nat
  /-- DT_ENTRIES. -/
  dtEntries : Nat
  /-- DT_RESET (10_state.md R62). -/
  dtReset : Vector Word dtEntries
  /-- TEXT_MAX. -/
  textMax : Nat
  /-- TM_BODY_BYTES. -/
  tmBodyBytes : Nat
  /-- TM_FIFO_DEPTH. -/
  tmFifoDepth : Nat
  /-- TX_BODY_MAX. -/
  txBodyMax : Nat
  /-- TIME_WIDTH. -/
  timeWidth : Nat
deriving DecidableEq, Repr

/-- The configuration of this hardware: each parameter at the default of 00_scope.md R6. The types and meanings of the model
read a parameter from here only, so another block of the family is another value of `hw`. -/
abbrev hw : Params :=
  { crcPolyR := 0xEDB88320#32
    crcInit := 0x00000000#32
    crcXorOut := 0x00000000#32
    syncReset := 0x1C1244AA#32
    respOk := 0x00000001#32
    dualRespBit := 7
    dtEntries := 8
    dtReset :=
      #v[0x80000001#32, 0x80000004#32, 0x80000012#32, 0x80000013#32,
         0x80000102#32, 0x8000028C#32, 0x80020026#32, 0x800100F1#32]
    textMax := 256
    tmBodyBytes := 112
    tmFifoDepth := 4
    txBodyMax := 256
    timeWidth := 64 }

/-- The constant of the ID register (10_state.md R40). -/
def idWord : Word := 0x4F454D34#32

end Config

/-- The capture-time input: TIME_WIDTH bits (00_scope.md R6). -/
abbrev Time := BitVec Config.hw.timeWidth

/-- One turn of the machine (20_memory.md R100): which agent may take the next step, with what its step needs.
A turn given to an agent that has no enabled step passes without effect on the block (60_exceptions.md R425;
log entry 2, DEDUCED, safe). -/
inductive Turn where
  /-- HOST: `MemRead(off, width)` (20_memory.md R101). The block takes width 4 only (R106). -/
  | hostRead (off : Offset) (width : Nat)
  /-- HOST: `MemWrite(off, width, v)` (20_memory.md R101). -/
  | hostWrite (off : Offset) (width : Nat) (v : Word)
  /-- RXE: ENV offers the next byte of the line, if it holds one (20_memory.md R102). -/
  | rxe
  /-- TXE: ENV accepts a byte (20_memory.md R103). -/
  | txe
  /-- ENV: the serial line delivers one more byte, behind those not yet taken (20_memory.md R104). -/
  | envRx (b : Byte)
  /-- ENV: the capture-time input takes the value `t` (10_state.md R74). -/
  | envTime (t : Time)
  /-- The platform resets the block (70_reset_and_hazards.md R440). -/
  | reset
deriving DecidableEq, Repr, Inhabited

/-- FREE VALUE: the n-th turn nobody has chosen in advance. Nothing constrains it, so a claim about a run that
draws turns is a claim about every interleaving and every environment (20_memory.md R100, R104; log entry 1,
DESIGN CHOICE, safe). -/
opaque Config.freeTurn : Nat → Turn

end Sys2Proof
end

