-- ==== Sys2Proof/Machine/State.lean ====
section
/-! DEFINITION. The state of the OEM4 Frame Engine as plain data: everything 10_state.md gives it, and beside it the
inputs and outputs of its environment. -/

namespace Sys2Proof.Machine

/-- The bytes of a buffer (HBUF, SLOT_TEXT, TX_BODY, tx_buf, …): (index, byte) pairs with strictly rising indices and no
zero byte. An index that is not listed reads 0, the reset content of every buffer (10_state.md R80; log entry 8, DEDUCED,
safe). -/
abbrev Memory := List Host.Cell

/-- rx_state (10_state.md R70, 42_frame_scanner.md R220). -/
inductive ScanState where
  | hunt | sync2 | sync3 | hdr | body | discard
deriving DecidableEq, Repr

/-- rx_cls (10_state.md R70). -/
inductive RxClass where
  | noClass | order | telem | info | skip
deriving DecidableEq, Repr

/-- Six field words in the layout of HF0–HF5 (10_state.md R50). -/
structure HdrWords where
  f0 : Word
  f1 : Word
  f2 : Word
  f3 : Word
  f4 : Word
  f5 : Word
deriving DecidableEq, Repr

/-- The eight event counters (10_state.md R63). -/
structure Counters where
  frames : Word
  desync : Word
  framing : Word
  unrec : Word
  crcerr : Word
  lenerr : Word
  tmdrop : Word
  orddrop : Word
deriving DecidableEq, Repr

/-- The receive engine's state (10_state.md R70). -/
structure Rx where
  state : ScanState
  hbuf : Memory
  hcnt : Nat
  msgId : Half
  msgType : Byte
  /-- rx_L. -/
  bodyLen : Half
  cls : RxClass
  /-- rx_C: bytes to consume after the header. -/
  consume : Nat
  /-- rx_pos: bytes consumed after the header. -/
  pos : Nat
  /-- rx_T: order text length. -/
  textLen : Nat
  crc : Word
  resp : Memory
  text : Memory
  tmbody : Memory
  rcrc : Memory
  deliver : Bool
deriving DecidableEq, Repr

/-- The transmit engine's state (10_state.md R71). -/
structure Tx where
  buf : Memory
  len : Nat
  pos : Nat
deriving DecidableEq, Repr

/-- One entry of the telemetry FIFO (10_state.md R73). -/
structure TmEntry where
  seq : Word
  time : Time
  body : Memory
  crc : Word
deriving DecidableEq, Repr

/-- The environment's side, held beside the block so that a step is a function of plain data. None of it is the
block's state; a reset of the block leaves it alone (10_state.md R74, 70_reset_and_hazards.md R441; log entries 1, 3, 4, 9). -/
structure Env where
  /-- Turns already chosen, the next one first. -/
  agenda : List Turn
  /-- How many turns have been drawn freely so far. -/
  draws : Nat
  /-- Bytes the line has delivered and RXE has not taken, the oldest first (20_memory.md R104). -/
  rxStream : List Byte
  /-- Bytes TXE has emitted, the oldest first (20_memory.md R103). -/
  txWire : List Byte
  /-- The capture-time input time_in (10_state.md R74). -/
  timeIn : Time
  /-- The words host reads have returned, the oldest first (20_memory.md R101). -/
  hostGot : List Word
deriving DecidableEq, Repr

/-- The machine. Registers that only show other state (ID, STATUS level bits, CMD, TM_SEQ to TM_COUNT, TM_BODY, SCAN,
SCAN_REM, TX_STAT) are computed, not stored (47_control.md R373). -/
structure State where
  ctrl : Word
  /-- STATUS sticky bits 16:8 (10_state.md R43). -/
  sticky : Word
  irqEn : Word
  sync : Word
  result : Word
  crcAcc : Word
  hbuf : Memory
  hf : HdrWords
  rh : HdrWords
  slotExpect : Word
  slotTag : Word
  slotLen : Word
  slotResp : Word
  slotCrc : Word
  slotText : Memory
  slotValid : Bool
  pending : Bool
  tmFifo : List TmEntry
  tmNextSeq : Word
  dt : Vector Word Config.hw.dtEntries
  cnt : Counters
  txBody : Memory
  rx : Rx
  tx : Tx
  env : Env
deriving DecidableEq, Repr

/-- Reasons to stop with a fault. There are none: "The block has no traps", and no event or refusal of an operation
stops an agent (60_exceptions.md R410, R424; log entry 12). The type is empty, so that no step can fault. -/
inductive Fault
deriving DecidableEq, Repr

/-- Reasons a step has no meaning. -/
inductive Refusal where
  /-- Raised by an arm of `exec` for an instruction without a meaning. No arm is left so. Safe. -/
  | notModelled (mnemonic : String)
  /-- Raised by a host access whose width is not 4: outside the block's interface, it has no step (20_memory.md R106).
  Safe: nothing is claimed of a host that makes one. -/
  | notWholeWord (width : Nat)
  /-- Raised by a host access at an offset that is not a multiple of 4: outside the block's interface, it has no step
  (20_memory.md R106). Safe: nothing is claimed of a host that makes one. -/
  | misaligned (off : Offset)
deriving DecidableEq, Repr

/-- What a step or a meaning answers. -/
abbrev Out := Host.Outcome State Fault Refusal

/-- Six zero words. -/
def HdrWords.zero : HdrWords := { f0 := 0, f1 := 0, f2 := 0, f3 := 0, f4 := 0, f5 := 0 }

/-- Eight zero counters. -/
def Counters.zero : Counters :=
  { frames := 0, desync := 0, framing := 0, unrec := 0, crcerr := 0, lenerr := 0, tmdrop := 0, orddrop := 0 }

/-- Every entry of the table of 10_state.md R70 at its reset value: what "clear the frame" leaves. -/
def Rx.cleared : Rx :=
  { state := .hunt, hbuf := [], hcnt := 0, msgId := 0, msgType := 0, bodyLen := 0, cls := .noClass, consume := 0,
    pos := 0, textLen := 0, crc := 0, resp := [], text := [], tmbody := [], rcrc := [], deliver := true }

/-- The transmit engine after reset (10_state.md R71). -/
def Tx.cleared : Tx := { buf := [], len := 0, pos := 0 }

/-- The environment before anything has happened. -/
def Env.start : Env := { agenda := [], draws := 0, rxStream := [], txWire := [], timeIn := 0, hostGot := [] }

/-- The machine right after reset (10_state.md R80, 70_reset_and_hazards.md R440). -/
def State.reset : State :=
  { ctrl := 0, sticky := 0, irqEn := 0, sync := Config.hw.syncReset, result := 0, crcAcc := 0, hbuf := [],
    hf := HdrWords.zero, rh := HdrWords.zero, slotExpect := 0, slotTag := 0, slotLen := 0, slotResp := 0, slotCrc := 0,
    slotText := [], slotValid := false, pending := false, tmFifo := [], tmNextSeq := 1, dt := Config.hw.dtReset,
    cnt := Counters.zero, txBody := [], rx := Rx.cleared, tx := Tx.cleared, env := Env.start }

end Sys2Proof.Machine
end

