-- ==== Sys2Proof/Machine/Flags.lean ====
section
/-! DEFINITION. Control bits, events, counters, STATUS, the interrupt line and the result codes (10_state.md R41–R44, R63;
30_encoding.md R142; 60_exceptions.md R400, R405, R411). -/

namespace Sys2Proof.Machine

/-! ## CTRL (10_state.md R41) -/

/-- CTRL.RX_EN. -/
def rxEn (s : State) : Bool := s.ctrl.getLsbD 0

/-- CTRL.ALIGN. -/
def alignOn (s : State) : Bool := s.ctrl.getLsbD 1

/-- CTRL.CRC_CHECK. -/
def crcCheck (s : State) : Bool := s.ctrl.getLsbD 2

/-- CTRL.RESYNC_FIX. -/
def resyncFix (s : State) : Bool := s.ctrl.getLsbD 3

/-- The writable bits of CTRL (47_control.md R374). -/
def ctrlMask : Word := 0x0000000F#32

/-! ## Events (60_exceptions.md R400) -/

/-- The nine events (60_exceptions.md R400). -/
inductive Event where
  | desync | framing | unrec | crcErr | lenErr | textTrunc | orderOverrun | tmOverflow | opErr
deriving DecidableEq, Repr

/-- The STATUS bit of an event (10_state.md R43). -/
def Event.bit : Event → Nat
  | .desync => 8
  | .framing => 9
  | .unrec => 10
  | .crcErr => 11
  | .lenErr => 12
  | .textTrunc => 13
  | .orderOverrun => 14
  | .tmOverflow => 15
  | .opErr => 16

/-- The STATUS word with only the event's bit set. -/
def Event.mask (e : Event) : Word := 1#32 <<< e.bit

/-- The event's counter, if it has one, advanced by 1 mod 2^32 (60_exceptions.md R400, R404). -/
def Event.count (e : Event) (c : Counters) : Counters :=
  match e with
  | .desync => { c with desync := c.desync + 1 }
  | .framing => { c with framing := c.framing + 1 }
  | .unrec => { c with unrec := c.unrec + 1 }
  | .crcErr => { c with crcerr := c.crcerr + 1 }
  | .lenErr => { c with lenerr := c.lenerr + 1 }
  | .textTrunc => c
  | .orderOverrun => { c with orddrop := c.orddrop + 1 }
  | .tmOverflow => { c with tmdrop := c.tmdrop + 1 }
  | .opErr => c

/-- `event E` (60_exceptions.md R400): the sticky bit and the counter, and nothing else. The block has no exception entry
(R410); this is what an anomaly does instead. -/
def event (e : Event) (s : State) : State :=
  { s with sticky := s.sticky ||| e.mask, cnt := e.count s.cnt }

/-! ## STATUS (10_state.md R42, R43) -/

/-- The sticky bits 16:8 (10_state.md R43). -/
def stickyMask : Word := 0x0001FF00#32

/-- A word with bit `k` set if `b` holds. -/
def bitIf (b : Bool) (k : Nat) : Word := if b then 1#32 <<< k else 0#32

/-- TX_BUSY: a frame is being sent (10_state.md R42, R66). -/
def txBusy (s : State) : Bool := s.tx.pos < s.tx.len

/-- RX_ACTIVE: a frame is in progress (10_state.md R42). -/
def rxActive (s : State) : Bool := s.rx.state != .hunt

/-- TM_NONEMPTY: the telemetry FIFO holds an entry (10_state.md R42). -/
def tmNonempty (s : State) : Bool := !s.tmFifo.isEmpty

/-- The level bits 4:0 of STATUS (10_state.md R42). -/
def levelBits (s : State) : Word :=
  bitIf s.slotValid 0 ||| bitIf s.pending 1 ||| bitIf (tmNonempty s) 2 ||| bitIf (txBusy s) 3 ||| bitIf (rxActive s) 4

/-- STATUS as a host reads it (10_state.md R42, R43). -/
def status (s : State) : Word := levelBits s ||| (s.sticky &&& stickyMask)

/-- A host write of `v` to STATUS clears the sticky bits written as 1 (60_exceptions.md R405, 47_control.md R374). -/
def clearSticky (v : Word) (s : State) : State :=
  { s with sticky := s.sticky &&& ~~~(v &&& stickyMask) }

/-! ## Interrupt line (60_exceptions.md R411) -/

/-- The bits of IRQ_EN that exist: 0, 2 and 8–16 (10_state.md R44). -/
def irqMask : Word := 0x0001FF05#32

/-- The level-sensitive interrupt output (60_exceptions.md R411). -/
def irq (s : State) : Bool := status s &&& s.irqEn &&& irqMask != 0#32

/-! ## Result codes (30_encoding.md R142) -/

/-- The ten result codes (30_encoding.md R142). -/
inductive Code where
  | ok | busy | empty | mismatch | illegal | range | respError | unsolicited | framing | notFound
deriving DecidableEq, Repr

/-- The CODE byte (30_encoding.md R142). -/
def Code.val : Code → Byte
  | .ok => 0x00#8
  | .busy => 0x01#8
  | .empty => 0x02#8
  | .mismatch => 0x03#8
  | .illegal => 0x04#8
  | .range => 0x05#8
  | .respError => 0x06#8
  | .unsolicited => 0x07#8
  | .framing => 0x08#8
  | .notFound => 0x09#8

/-- RESULT = {ARG, OPC, CODE} (10_state.md R47). -/
def resultWord (opc : Byte) (c : Code) (arg : Half) : Word := arg ++ opc ++ c.val

end Sys2Proof.Machine
end

