-- ==== Sys2Proof/Machine/Ops.lean ====
section
/-! DEFINITION. The shared operations: byte buffers, byte order, how an operation ends (30_encoding.md R142), clearing the
frame (10_state.md R70) and the block's reset. The block takes no exception and returns from none (60_exceptions.md R410):
what stands in their place is `event` (Flags) and `result` (here). -/

namespace Sys2Proof.Machine

/-! ## Byte buffers -/

/-- Byte `a` of a buffer (00_scope.md R8); an index that is not listed reads 0 (10_state.md R80). -/
def Memory.read : Memory → Nat → Byte
  | [], _ => 0#8
  | (k, v) :: m, a => if a = k then v else Memory.read m a

/-- One cell in front of a buffer whose indices are all greater, kept out if its byte is what the index reads anyway. -/
def Memory.cons (a : Nat) (b : Byte) (m : Memory) : Memory := if b = 0#8 then m else (a, b) :: m

/-- `buf[a] <- b`, in canonical form. -/
def Memory.write : Memory → Nat → Byte → Memory
  | [], a, b => Memory.cons a b []
  | (k, v) :: m, a, b =>
    if a < k then Memory.cons a b ((k, v) :: m)
    else if a = k then Memory.cons a b m
    else (k, v) :: Memory.write m a b

/-- `buf[a .. a+|bs|) <- bs`. -/
def Memory.writeBytes : Memory → Nat → List Byte → Memory
  | m, _, [] => m
  | m, a, b :: bs => Memory.writeBytes (Memory.write m a b) (a + 1) bs

/-- `buf[a .. a+n)` (00_scope.md R8). -/
def Memory.bytes (m : Memory) : Nat → Nat → List Byte
  | _, 0 => []
  | a, n + 1 => Memory.read m a :: Memory.bytes m (a + 1) n

/-- The buffer whose bytes below `n` are those of `m` and whose other bytes are 0. -/
def Memory.truncate (m : Memory) (n : Nat) : Memory := m.filter (fun c => c.1 < n)

/-- Indices strictly rise above `lo`, and no listed byte is 0. -/
def Memory.wfFrom : Nat → Memory → Bool
  | _, [] => true
  | lo, (k, v) :: m => decide (lo ≤ k) && decide (v ≠ 0#8) && Memory.wfFrom (k + 1) m

/-- The canonical form: equal buffers are equal data. -/
def Memory.wf (m : Memory) : Bool := Memory.wfFrom 0 m

/-- Every listed index lies in the buffer's size. -/
def Memory.within (size : Nat) (m : Memory) : Bool := m.all (fun c => decide (c.1 < size))

/-- A buffer of `size` bytes in canonical form. -/
def Memory.ok (size : Nat) (m : Memory) : Bool := Memory.wf m && Memory.within size m

/-! ## Byte order (00_scope.md R10, 20_memory.md R107, R108) -/

/-- `LE16`. -/
def le16 (b0 b1 : Byte) : Half := b1 ++ b0

/-- `LE32`. -/
def le32 (b0 b1 b2 b3 : Byte) : Word := b3 ++ b2 ++ b1 ++ b0

/-- `bytesLE16`. -/
def bytesLE16 (v : Half) : List Byte := [v.extractLsb' 0 8, v.extractLsb' 8 8]

/-- `bytesLE32`. -/
def bytesLE32 (v : Word) : List Byte :=
  [v.extractLsb' 0 8, v.extractLsb' 8 8, v.extractLsb' 16 8, v.extractLsb' 24 8]

/-- `LE32(buf[a .. a+4))`. -/
def Memory.word (m : Memory) (a : Nat) : Word :=
  le32 (Memory.read m a) (Memory.read m (a + 1)) (Memory.read m (a + 2)) (Memory.read m (a + 3))

/-- `buf[a .. a+4) <- bytesLE32(v)`. -/
def Memory.writeWord (m : Memory) (a : Nat) (v : Word) : Memory := Memory.writeBytes m a (bytesLE32 v)

/-! ## How an operation ends (30_encoding.md R142) -/

/-- `result(code, arg)`: RESULT is written, and a code other than OK is event OP_ERR. -/
def result (opc : Byte) (c : Code) (arg : Half) (s : State) : State :=
  if c = .ok then { s with result := resultWord opc c arg }
  else event .opErr { s with result := resultWord opc c arg }

/-- The operation `i` completes with `result(code, arg)`: a next state (60_exceptions.md R402). -/
def finish (i : Instr) (c : Code) (arg : Half) (s : State) : Out := .next (result (opcode i) c arg s)

/-! ## Clearing and resetting -/

/-- "Clear the frame" (10_state.md R70). -/
def clearFrame (s : State) : State := { s with rx := Rx.cleared }

/-- The block's reset (70_reset_and_hazards.md R440, R441): every piece of the block's state at the value of 10_state.md
R80. What the line has delivered, what was sent and the inputs are the environment's and stay. -/
def blockReset (s : State) : State := { State.reset with env := s.env }

end Sys2Proof.Machine
end

