-- ==== Sys2Proof/Machine/Operands.lean ====
section
/-! DEFINITION. Operands: the register a host access names by its offset (10_state.md R33), and the byte count an operation
takes (30_encoding.md R141). -/

namespace Sys2Proof.Machine

/-- What stands at an offset of the register window (10_state.md R33). -/
inductive Reg where
  | id | ctrl | status | irqEn | sync | cmd | result | crcAcc
  | hbuf (k : Fin 7)
  | hf (k : Fin 6)
  | rh (k : Fin 6)
  | slotExpect | slotTag | slotLen | slotResp | slotCrc
  | tmSeq | tmTimeLo | tmTimeHi | tmCrc | tmCount | tmNextSeq
  | dt (k : Fin Config.hw.dtEntries)
  | cnt (k : Fin 8)
  | scan | scanRem | txStat
  | slotText (j : Fin (Config.hw.textMax / 4))
  | tmBody (j : Fin (Config.hw.tmBodyBytes / 4))
  | txBody (j : Fin (Config.hw.txBodyMax / 4))
  | reserved
deriving DecidableEq, Repr

/-- The register map (10_state.md R33) on the word index `off / 4` of an aligned offset. Everything it does not name is
reserved (R68). -/
def regAtWord (w : Nat) : Reg :=
  if w = 0 then .id
  else if w = 1 then .ctrl
  else if w = 2 then .status
  else if w = 3 then .irqEn
  else if w = 4 then .sync
  else if w = 5 then .cmd
  else if w = 6 then .result
  else if w = 7 then .crcAcc
  else if h : 8 ≤ w ∧ w < 15 then .hbuf ⟨w - 8, by omega⟩
  else if h : 16 ≤ w ∧ w < 22 then .hf ⟨w - 16, by omega⟩
  else if h : 22 ≤ w ∧ w < 28 then .rh ⟨w - 22, by omega⟩
  else if w = 28 then .slotExpect
  else if w = 29 then .slotTag
  else if w = 30 then .slotLen
  else if w = 31 then .slotResp
  else if w = 32 then .slotCrc
  else if w = 33 then .tmSeq
  else if w = 34 then .tmTimeLo
  else if w = 35 then .tmTimeHi
  else if w = 36 then .tmCrc
  else if w = 37 then .tmCount
  else if w = 38 then .tmNextSeq
  else if h : 40 ≤ w ∧ w < 40 + Config.hw.dtEntries then .dt ⟨w - 40, by omega⟩
  else if h : 48 ≤ w ∧ w < 56 then .cnt ⟨w - 48, by omega⟩
  else if w = 56 then .scan
  else if w = 57 then .scanRem
  else if w = 58 then .txStat
  else if h : 64 ≤ w ∧ w < 64 + Config.hw.textMax / 4 then .slotText ⟨w - 64, by omega⟩
  else if h : 128 ≤ w ∧ w < 128 + Config.hw.tmBodyBytes / 4 then .tmBody ⟨w - 128, by omega⟩
  else if h : 256 ≤ w ∧ w < 256 + Config.hw.txBodyMax / 4 then .txBody ⟨w - 256, by omega⟩
  else .reserved

/-- The register at an aligned byte offset (10_state.md R33). -/
def regAt (off : Offset) : Reg := regAtWord (off.toNat / 4)

/-- The offset of CMD (10_state.md R46). -/
def cmdOffset : Offset := 0x014#12

/-- A byte count the transmit body buffer can serve (30_encoding.md R141): above TX_BODY_MAX the operation answers RANGE. -/
def countOk (n : Nat) : Bool := n ≤ Config.hw.txBodyMax

end Sys2Proof.Machine
end

