-- ==== Sys2Proof/Machine/Control.lean ====
section
/-! DEFINITION. The control operations (47_control.md). -/

namespace Sys2Proof.Machine

/-- NOP (47_control.md R370). -/
def execNop (s : State) : Out := finish .nop .ok 0 s

/-- SCAN_RESET (47_control.md R371). -/
def execScanReset (s : State) : Out := finish .scanReset .ok 0 (clearFrame s)

/-- CNT_CLEAR (47_control.md R372). -/
def execCntClear (s : State) : Out := finish .cntClear .ok 0 { s with cnt := Counters.zero }

end Sys2Proof.Machine
end

