-- ==== Sys2Proof/Machine/Correlator.lean ====
section
/-! DEFINITION. The correlation slot: deposit and the four host operations (44_correlator.md). -/

namespace Sys2Proof.Machine

/-- `deposit(rc)` (44_correlator.md R304). -/
def deposit (rc : Word) (s : State) : State :=
  if s.slotValid then event .orderOverrun s
  else
    let held :=
      { s with
        slotTag := 0#8 ++ s.rx.msgType ++ s.rx.msgId
        slotLen := BitVec.ofNat 32 s.rx.textLen
        slotResp := Memory.word s.rx.resp 0
        slotCrc := rc
        slotText := Memory.truncate s.rx.text (min s.rx.textLen Config.hw.textMax)
        slotValid := true }
    if Config.hw.textMax < s.rx.textLen then event .textTrunc held else held

/-- SLOT_ARM id (44_correlator.md R310). -/
def execSlotArm (msgId : Half) (s : State) : Out :=
  if s.pending then finish (.slotArm msgId) .busy 0 s
  else finish (.slotArm msgId) .ok 0 { s with slotExpect := msgId.setWidth 32, pending := true }

/-- SLOT_TAG.TAG_ID (10_state.md R53). -/
def tagId (s : State) : Half := s.slotTag.extractLsb' 0 16

/-- SLOT_EXPECT.EXPECT_ID (10_state.md R52). -/
def expectId (s : State) : Half := s.slotExpect.extractLsb' 0 16

/-- The code of a take of a held order, in the order R311 checks them (44_correlator.md R311). -/
def takeCode (s : State) : Code :=
  if s.pending = false then .unsolicited
  else if tagId s ≠ expectId s then .mismatch
  else if s.slotResp ≠ Config.hw.respOk then .respError
  else .ok

/-- SLOT_TAKE (44_correlator.md R311). -/
def execSlotTake (s : State) : Out :=
  if s.slotValid then
    finish .slotTake (takeCode s) (tagId s) { s with slotValid := false, pending := false }
  else finish .slotTake .empty 0 s

/-- SLOT_CANCEL (44_correlator.md R312). -/
def execSlotCancel (s : State) : Out := finish .slotCancel .ok 0 { s with pending := false }

/-- SLOT_FLUSH (44_correlator.md R313). -/
def execSlotFlush (s : State) : Out := finish .slotFlush .ok 0 { s with slotValid := false }

end Sys2Proof.Machine
end

