-- ==== Sys2Proof/Machine/Crc.lean ====
section
/-! DEFINITION. The CRC-32 generator and its four host operations (40_crc.md). -/

namespace Sys2Proof.Machine

/-- One turn of the loop of `crc_step` (40_crc.md R180). -/
def crcShift (c : Word) : Word := if c.getLsbD 0 then (c >>> 1) ^^^ Config.hw.crcPolyR else c >>> 1

/-- `k` turns of the loop of `crc_step`. -/
def crcShifts : Nat → Word → Word
  | 0, c => c
  | k + 1, c => crcShifts k (crcShift c)

/-- `crc_step(c, b)` (40_crc.md R180). -/
def crcStep (c : Word) (b : Byte) : Word := crcShifts 8 (c ^^^ b.setWidth 32)

/-- `crc_update(c, s)` (40_crc.md R181). -/
def crcUpdate : Word → List Byte → Word
  | c, [] => c
  | c, b :: bs => crcUpdate (crcStep c b) bs

/-- `crc(s)` (40_crc.md R182). -/
def crc (bs : List Byte) : Word := crcUpdate Config.hw.crcInit bs ^^^ Config.hw.crcXorOut

/-- CRC_INIT (40_crc.md R183). -/
def execCrcInit (s : State) : Out := finish .crcInit .ok 0 { s with crcAcc := Config.hw.crcInit }

/-- CRC_BYTE B (40_crc.md R184). -/
def execCrcByte (b : Byte) (s : State) : Out := finish (.crcByte b) .ok 0 { s with crcAcc := crcStep s.crcAcc b }

/-- CRC_HBUF (40_crc.md R185). -/
def execCrcHbuf (s : State) : Out :=
  finish .crcHbuf .ok 0 { s with crcAcc := crcUpdate s.crcAcc (Memory.bytes s.hbuf 0 28) }

/-- CRC_TXBODY n (40_crc.md R186). -/
def execCrcTxbody (n : Nat) (s : State) : Out :=
  if countOk n then
    finish (.crcTxbody n) .ok 0 { s with crcAcc := crcUpdate s.crcAcc (Memory.bytes s.txBody 0 n) }
  else finish (.crcTxbody n) .range 0 s

end Sys2Proof.Machine
end

