-- ==== Sys2Proof/Machine/Header.lean ====
section
/-! DEFINITION. The header codec and its two host operations (41_header_codec.md). -/

namespace Sys2Proof.Machine

/-- `pack(S, F)` (41_header_codec.md R200). -/
def pack (sync : Word) (f : HdrWords) : List Byte :=
  bytesLE32 sync ++ bytesLE32 f.f0 ++ bytesLE32 f.f1 ++ bytesLE32 f.f2 ++ bytesLE32 f.f3 ++ bytesLE32 f.f4 ++ bytesLE32 f.f5

/-- `unpack(h, S)` (41_header_codec.md R201); `none` is FramingError. -/
def unpack (h : Memory) (sync : Word) : Option HdrWords :=
  if Memory.word h 0 = sync then
    some { f0 := Memory.word h 4, f1 := Memory.word h 8, f2 := Memory.word h 12, f3 := Memory.word h 16,
           f4 := Memory.word h 20, f5 := Memory.word h 24 }
  else none

/-- HDR_PACK (41_header_codec.md R203). -/
def execHdrPack (s : State) : Out :=
  finish .hdrPack .ok 0 { s with hbuf := Memory.writeBytes s.hbuf 0 (pack s.sync s.hf) }

/-- HDR_UNPACK (41_header_codec.md R204). -/
def execHdrUnpack (s : State) : Out :=
  match unpack s.hbuf s.sync with
  | none => finish .hdrUnpack .framing 0 s
  | some f => finish .hdrUnpack .ok 0 { s with hf := f }

end Sys2Proof.Machine
end

