-- ==== Sys2Proof/Machine/Lookup.lean ====
section
/-! DEFINITION. The dispatch table's lookup and DT_LOOKUP (43_dispatcher.md R260, R280). -/

namespace Sys2Proof.Machine

/-- A class a dispatch entry can select (10_state.md R62). -/
inductive DtClass where
  | order | telem | dual
deriving DecidableEq, Repr

/-- DTk.CLASS as written in the entry and reported by DT_LOOKUP (10_state.md R62, 43_dispatcher.md R280). -/
def DtClass.code : DtClass → BitVec 2
  | .order => 0#2
  | .telem => 1#2
  | .dual => 2#2

/-- The class a CLASS field selects; 3 is reserved and selects none (10_state.md R62). -/
def dtClassOf (c : BitVec 2) : Option DtClass :=
  if c = 0#2 then some .order else if c = 1#2 then some .telem else if c = 2#2 then some .dual else none

/-- The class of an entry that matches `msgId`: VALID = 1, CLASS ≠ 3 and ID = id (43_dispatcher.md R260). -/
def dtMatch (e : Word) (msgId : Half) : Option DtClass :=
  if e.getLsbD 31 && e.extractLsb' 0 16 == msgId then dtClassOf (e.extractLsb' 16 2) else none

/-- The first match among entries k, k+1, …, with its index. -/
def dtSearch (msgId : Half) : List Word → Nat → Option (Nat × DtClass)
  | [], _ => none
  | e :: es, k =>
    match dtMatch e msgId with
    | some c => some (k, c)
    | none => dtSearch msgId es (k + 1)

/-- `dt_lookup(id)` (43_dispatcher.md R260). -/
def dtLookup (s : State) (msgId : Half) : Option (Nat × DtClass) := dtSearch msgId s.dt.toList 0

/-- ARG[5:4] = class, ARG[3:0] = index (43_dispatcher.md R280). -/
def lookupArg (k : Nat) (c : DtClass) : Half := 0#10 ++ c.code ++ BitVec.ofNat 4 k

/-- DT_LOOKUP id (43_dispatcher.md R280). -/
def execDtLookup (msgId : Half) (s : State) : Out :=
  match dtLookup s msgId with
  | none => finish (.dtLookup msgId) .notFound 0 s
  | some (k, c) => finish (.dtLookup msgId) .ok (lookupArg k c) s

end Sys2Proof.Machine
end

