-- ==== Sys2Proof/Machine/Telemetry.lean ====
section
/-! DEFINITION. The telemetry FIFO: acceptance and TM_POP (45_telemetry.md). -/

namespace Sys2Proof.Machine

/-- The record a telemetry frame makes: next sequence number, time_in at this step, the raw body, the received trailer
(45_telemetry.md R331). -/
def tmRecord (rc : Word) (s : State) : TmEntry :=
  { seq := s.tmNextSeq, time := s.env.timeIn, body := Memory.truncate s.rx.tmbody Config.hw.tmBodyBytes, crc := rc }

/-- `tm_accept(rc)` (45_telemetry.md R331). -/
def tmAccept (rc : Word) (s : State) : State :=
  if Config.hw.tmFifoDepth ≤ s.tmFifo.length then event .tmOverflow s
  else { s with tmFifo := s.tmFifo ++ [tmRecord rc s], tmNextSeq := s.tmNextSeq + 1 }

/-- TM_POP (45_telemetry.md R335). -/
def execTmPop (s : State) : Out :=
  match s.tmFifo with
  | [] => finish .tmPop .empty 0 s
  | _ :: rest => finish .tmPop .ok (BitVec.ofNat 16 rest.length) { s with tmFifo := rest }

end Sys2Proof.Machine
end

