-- ==== Sys2Proof/Machine/Transmit.lean ====
section
/-! DEFINITION. The transmit frame assembler, its two host operations and the transmit engine's step (46_transmit.md). -/

namespace Sys2Proof.Machine

/-- HF with BODY_LEN set to n[15:0] (46_transmit.md R352). -/
def withBodyLen (f : HdrWords) (n : Nat) : HdrWords :=
  { f with f1 := f.f1.extractLsb' 16 16 ++ BitVec.ofNat 16 n }

/-- header ++ body ++ trailer of the frame with the given header and body (30_encoding.md R130, R133). -/
def sealFrame (header body : List Byte) : List Byte := header ++ body ++ bytesLE32 (crc (header ++ body))

/-- The frame `tx_build(n)` assembles (46_transmit.md R352, the frame law). -/
def txFrame (s : State) (n : Nat) : List Byte :=
  sealFrame (pack s.sync (withBodyLen s.hf n)) (Memory.bytes s.txBody 0 n)

/-- `tx_build(n)` (46_transmit.md R352). Bytes of tx_buf beyond the frame keep their stale values. -/
def txBuild (n : Nat) (s : State) : State :=
  { s with
    hf := withBodyLen s.hf n
    hbuf := Memory.writeBytes s.hbuf 0 (pack s.sync (withBodyLen s.hf n))
    tx := { buf := Memory.writeBytes s.tx.buf 0 (txFrame s n), len := 32 + n, pos := 0 } }

/-- TX_SEND n (46_transmit.md R350). -/
def execTxSend (n : Nat) (s : State) : Out :=
  if txBusy s then finish (.txSend n) .busy 0 s
  else if countOk n then finish (.txSend n) .ok (BitVec.ofNat 16 (txBuild n s).tx.len) (txBuild n s)
  else finish (.txSend n) .range 0 s

/-- HF0.MSG_ID (10_state.md R50). -/
def hfMsgId (f : HdrWords) : Half := f.f0.extractLsb' 0 16

/-- TX_ISSUE n (46_transmit.md R351). -/
def execTxIssue (n : Nat) (s : State) : Out :=
  if txBusy s then finish (.txIssue n) .busy 0 s
  else if s.pending then finish (.txIssue n) .busy 0 s
  else if countOk n then
    finish (.txIssue n) .ok (BitVec.ofNat 16 (txBuild n s).tx.len)
      { txBuild n s with slotExpect := (hfMsgId s.hf).setWidth 32, pending := true }
  else finish (.txIssue n) .range 0 s

/-- One TXE step where the engine is enabled (46_transmit.md R353); nothing where it is not (60_exceptions.md R425). -/
def txeStep (s : State) : State :=
  if txBusy s then
    { s with
      tx := { s.tx with pos := s.tx.pos + 1 }
      env := { s.env with txWire := s.env.txWire ++ [Memory.read s.tx.buf s.tx.pos] } }
  else s

end Sys2Proof.Machine
end

