-- ==== Sys2Proof/Machine/Dispatch.lean ====
section
/-! DEFINITION. One arm per host operation. -/

namespace Sys2Proof.Machine

def exec (i : Instr) (s : State) : Host.Outcome State Fault Refusal :=
  match i with
  | .nop => Sys2Proof.Machine.execNop s
  | .crcInit => Sys2Proof.Machine.execCrcInit s
  | .crcByte b => Sys2Proof.Machine.execCrcByte b s
  | .crcHbuf => Sys2Proof.Machine.execCrcHbuf s
  | .crcTxbody n => Sys2Proof.Machine.execCrcTxbody n s
  | .hdrPack => Sys2Proof.Machine.execHdrPack s
  | .hdrUnpack => Sys2Proof.Machine.execHdrUnpack s
  | .txSend n => Sys2Proof.Machine.execTxSend n s
  | .txIssue n => Sys2Proof.Machine.execTxIssue n s
  | .slotArm x => Sys2Proof.Machine.execSlotArm x s
  | .slotTake => Sys2Proof.Machine.execSlotTake s
  | .slotCancel => Sys2Proof.Machine.execSlotCancel s
  | .slotFlush => Sys2Proof.Machine.execSlotFlush s
  | .tmPop => Sys2Proof.Machine.execTmPop s
  | .dtLookup x => Sys2Proof.Machine.execDtLookup x s
  | .scanReset => Sys2Proof.Machine.execScanReset s
  | .cntClear => Sys2Proof.Machine.execCntClear s

end Sys2Proof.Machine
end

