-- ==== Sys2Proof/Machine/Receive.lean ====
section
/-! DEFINITION. The receive engine: synchronizer (42_frame_scanner.md), dispatcher and body handling (43_dispatcher.md). -/

namespace Sys2Proof.Machine

/-- SYNC.SYNC0 (10_state.md R45). -/
def sync0 (s : State) : Byte := s.sync.extractLsb' 0 8

/-- SYNC.SYNC1 (10_state.md R45). -/
def sync1 (s : State) : Byte := s.sync.extractLsb' 8 8

/-- SYNC.SYNC2 (10_state.md R45). -/
def sync2 (s : State) : Byte := s.sync.extractLsb' 16 8

/-- SYNC.HDRLEN (10_state.md R45). -/
def hdrLen (s : State) : Byte := s.sync.extractLsb' 24 8

/-- `rx_ready` (42_frame_scanner.md R221). -/
def rxReady (s : State) : Bool := rxActive s || rxEn s

/-! ## Synchronisation -/

/-- Header byte k taken, the scanner moves on: `rx_hbuf[k] <- b; rx_hcnt <- k + 1; rx_state <- st`. -/
def takeSync (k : Nat) (st : ScanState) (b : Byte) (s : State) : State :=
  { s with rx := { s.rx with hbuf := Memory.write s.rx.hbuf k b, hcnt := k + 1, state := st } }

/-- `hunt(b)` (42_frame_scanner.md R223). -/
def huntByte (b : Byte) (s : State) : State :=
  if b = sync0 s then takeSync 0 .sync2 b s else event .desync s

/-- `restart(b)` (42_frame_scanner.md R226). -/
def restart (b : Byte) (s : State) : State :=
  if resyncFix s && b == sync0 s then takeSync 0 .sync2 b (clearFrame s) else clearFrame s

/-- `sync2(b)` (42_frame_scanner.md R224). RX_EN does not end a matching attempt (R221; log entry 16, DEDUCED, safe). -/
def sync2Byte (b : Byte) (s : State) : State :=
  if b = sync1 s then takeSync 1 .sync3 b s else restart b (event .desync s)

/-- `sync3(b)` (42_frame_scanner.md R225). -/
def sync3Byte (b : Byte) (s : State) : State :=
  if b = sync2 s then takeSync 2 .hdr b s else restart b (event .desync s)

/-! ## Selection (43_dispatcher.md) -/

/-- `order_setup(align)` (43_dispatcher.md R263, R264). -/
def orderSetup (align : Bool) (s : State) : State :=
  let l := s.rx.bodyLen.toNat
  if 4 ≤ l ∨ align = false then
    { s with rx := { s.rx with cls := .order, textLen := l - 4, consume := (l - 4) + 8, state := .body } }
  else
    event .lenErr { s with rx := { s.rx with cls := .skip, consume := l + 4, state := .discard } }

/-- `telem_setup()` (43_dispatcher.md R265). -/
def telemSetup (s : State) : State :=
  let l := s.rx.bodyLen.toNat
  if l = Config.hw.tmBodyBytes then
    { s with rx := { s.rx with cls := .telem, consume := l + 4, state := .body } }
  else
    event .lenErr { s with rx := { s.rx with cls := .telem, consume := l + 4, state := .body, deliver := false } }

/-- `unrec_setup(align)` (43_dispatcher.md R266). -/
def unrecSetup (align : Bool) (s : State) : State :=
  if align then
    event .unrec
      { s with rx := { s.rx with cls := .skip, consume := s.rx.bodyLen.toNat + 4, state := .discard } }
  else event .unrec (clearFrame s)

/-- `info_setup(align)` (43_dispatcher.md R267). -/
def infoSetup (align : Bool) (s : State) : State :=
  { s with rx := { s.rx with
      cls := .info
      consume := if align then s.rx.bodyLen.toNat + 4 else 8
      state := .discard } }

/-- What `classify` selects for an identifier and a message type (43_dispatcher.md R261): a class, or `noClass` where no
entry matches. -/
def classOf (s : State) (msgId : Half) (msgType : Byte) : RxClass :=
  match dtLookup s msgId with
  | none => .noClass
  | some (_, .order) => .order
  | some (_, .telem) => .telem
  | some (_, .dual) => if msgType.getLsbD Config.hw.dualRespBit then .order else .info

/-- `classify()` (43_dispatcher.md R261). -/
def classify (s : State) : State :=
  let s0 := { s with rx := { s.rx with pos := 0 } }
  match classOf s0 s0.rx.msgId s0.rx.msgType with
  | .order => orderSetup (alignOn s0) s0
  | .telem => telemSetup s0
  | .info => infoSetup (alignOn s0) s0
  | .noClass => unrecSetup (alignOn s0) s0
  | .skip => unrecSetup (alignOn s0) s0

/-! ## Header collection and validation -/

/-- What a valid header sets before `classify` (42_frame_scanner.md R229). -/
def headerTaken (f : HdrWords) (s : State) : State :=
  { s with
    rh := f
    cnt := { s.cnt with frames := s.cnt.frames + 1 }
    rx := { s.rx with
      msgId := f.f0.extractLsb' 0 16
      msgType := f.f0.extractLsb' 16 8
      bodyLen := f.f1.extractLsb' 0 16
      crc := crc (Memory.bytes s.rx.hbuf 0 28)
      deliver := true } }

/-- `header_done()` (42_frame_scanner.md R228, R229). -/
def headerDone (s : State) : State :=
  match unpack s.rx.hbuf s.sync with
  | none => clearFrame (event .framing s)
  | some f => classify (headerTaken f s)

/-- `hdr(b)` (42_frame_scanner.md R227). -/
def hdrByte (b : Byte) (s : State) : State :=
  let s1 := { s with rx := { s.rx with hbuf := Memory.write s.rx.hbuf s.rx.hcnt b, hcnt := s.rx.hcnt + 1 } }
  if s1.rx.hcnt = 28 then headerDone s1 else s1

/-! ## Consuming the bytes after the header (43_dispatcher.md) -/

/-- The received trailer `LE32(rx_rcrc[0..4))`. -/
def rcOf (r : Rx) : Word := Memory.word r.rcrc 0

/-- The delivery half of `frame_end` (43_dispatcher.md R272): an order to the slot, a record to the FIFO. -/
def deliverFrame (s : State) : State :=
  match s.rx.cls with
  | .order => deposit (rcOf s.rx) s
  | .telem => if s.rx.deliver then tmAccept (rcOf s.rx) s else s
  | .noClass => s
  | .info => s
  | .skip => s

/-- `frame_end()` (43_dispatcher.md R272). -/
def frameEnd (s : State) : State :=
  if crcCheck s && rcOf s.rx != s.rx.crc then clearFrame (event .crcErr s)
  else clearFrame (deliverFrame s)

/-- Where byte `p` after the header goes in the CRC and the trailer (43_dispatcher.md R270). -/
def bodyCrc (b : Byte) (r : Rx) : Rx :=
  if r.pos < r.consume - 4 then { r with crc := crcStep r.crc b }
  else { r with rcrc := Memory.write r.rcrc (r.pos - (r.consume - 4)) b }

/-- Where byte `p` after the header is stored (43_dispatcher.md R270). -/
def bodyStore (b : Byte) (r : Rx) : Rx :=
  if r.cls = .order then
    if r.pos < 4 then { r with resp := Memory.write r.resp r.pos b }
    else if r.pos < 4 + r.textLen ∧ r.pos - 4 < Config.hw.textMax then { r with text := Memory.write r.text (r.pos - 4) b }
    else r
  else if r.pos < r.bodyLen.toNat ∧ r.pos < Config.hw.tmBodyBytes then { r with tmbody := Memory.write r.tmbody r.pos b }
  else r

/-- The receive state after `body_byte(b)` and before any `frame_end` (43_dispatcher.md R270). -/
def bodyTaken (b : Byte) (r : Rx) : Rx := { bodyStore b (bodyCrc b r) with pos := r.pos + 1 }

/-- `body_byte(b)` (43_dispatcher.md R270). What it does in states outside Inv: log entry 13, DESIGN CHOICE, safe. -/
def bodyByte (b : Byte) (s : State) : State :=
  let s1 := { s with rx := bodyTaken b s.rx }
  if s1.rx.pos = s1.rx.consume then frameEnd s1 else s1

/-- `discard_byte(b)` (43_dispatcher.md R271): the byte itself is not looked at. -/
def discardByte (s : State) : State :=
  let s1 := { s with rx := { s.rx with pos := s.rx.pos + 1 } }
  if s1.rx.pos = s1.rx.consume then clearFrame s1 else s1

/-- `rx_byte(b)`: one RXE step (42_frame_scanner.md R222). -/
def rxByte (b : Byte) (s : State) : State :=
  match s.rx.state with
  | .hunt => huntByte b s
  | .sync2 => sync2Byte b s
  | .sync3 => sync3Byte b s
  | .hdr => hdrByte b s
  | .body => bodyByte b s
  | .discard => discardByte s

/-- One RXE turn: the step of 20_memory.md R102 where it is enabled (a byte is there and `rx_ready` holds); nothing where it
is not, and the byte stays with the environment. -/
def rxeStep (s : State) : State :=
  if rxReady s then
    match s.env.rxStream with
    | [] => s
    | b :: bs => rxByte b { s with env := { s.env with rxStream := bs } }
  else s

end Sys2Proof.Machine
end

