-- ==== Sys2Proof/Machine/Registers.lean ====
section
/-! DEFINITION. Register reads and writes (47_control.md R373, R374). -/

namespace Sys2Proof.Machine

/-- Field word k of HF or RH (10_state.md R50). -/
def hdrGet (w : HdrWords) (k : Fin 6) : Word :=
  match k with
  | 0 => w.f0
  | 1 => w.f1
  | 2 => w.f2
  | 3 => w.f3
  | 4 => w.f4
  | 5 => w.f5

/-- Field word k set to `v`. -/
def hdrSet (w : HdrWords) (k : Fin 6) (v : Word) : HdrWords :=
  match k with
  | 0 => { w with f0 := v }
  | 1 => { w with f1 := v }
  | 2 => { w with f2 := v }
  | 3 => { w with f3 := v }
  | 4 => { w with f4 := v }
  | 5 => { w with f5 := v }

/-- Counter k in the order of 10_state.md R63. -/
def cntGet (c : Counters) (k : Fin 8) : Word :=
  match k with
  | 0 => c.frames
  | 1 => c.desync
  | 2 => c.framing
  | 3 => c.unrec
  | 4 => c.crcerr
  | 5 => c.lenerr
  | 6 => c.tmdrop
  | 7 => c.orddrop

/-- SCAN.STATE (10_state.md R64). -/
def ScanState.code : ScanState → BitVec 3
  | .hunt => 0#3
  | .sync2 => 1#3
  | .sync3 => 2#3
  | .hdr => 3#3
  | .body => 4#3
  | .discard => 5#3

/-- SCAN.CLASS (10_state.md R64). -/
def RxClass.code : RxClass → BitVec 3
  | .noClass => 0#3
  | .order => 1#3
  | .telem => 2#3
  | .info => 3#3
  | .skip => 4#3

/-- SCAN (10_state.md R64). -/
def scanWord (r : Rx) : Word := 0#16 ++ r.cls.code ++ BitVec.ofNat 5 r.hcnt ++ 0#5 ++ r.state.code

/-- The bytes left in the frame after the header, while one is being consumed (10_state.md R65). -/
def scanRem (r : Rx) : Nat := if r.state = .body ∨ r.state = .discard then r.consume - r.pos else 0

/-- SCAN_REM (10_state.md R65). -/
def scanRemWord (r : Rx) : Word := 0#15 ++ BitVec.ofNat 17 (scanRem r)

/-- TX_STAT (10_state.md R66). -/
def txStatWord (t : Tx) : Word := BitVec.ofNat 16 t.pos ++ BitVec.ofNat 16 t.len

/-- The bits of DTk that exist (10_state.md R62, 47_control.md R374). -/
def dtMask : Word := 0x8003FFFF#32

/-- A field of the head entry of the telemetry FIFO, 0 when it is empty (10_state.md R58, R61, 45_telemetry.md R332). -/
def tmHead (s : State) (f : TmEntry → Word) : Word :=
  match s.tmFifo with
  | [] => 0#32
  | e :: _ => f e

/-- The register's current value with its reserved bits as 0 (47_control.md R373; log entry 14, DEDUCED, safe). -/
def readReg (r : Reg) (s : State) : Word :=
  match r with
  | .id => Config.idWord
  | .ctrl => s.ctrl &&& ctrlMask
  | .status => status s
  | .irqEn => s.irqEn &&& irqMask
  | .sync => s.sync
  | .cmd => 0#32
  | .result => s.result
  | .crcAcc => s.crcAcc
  | .hbuf k => Memory.word s.hbuf (4 * k.val)
  | .hf k => hdrGet s.hf k
  | .rh k => hdrGet s.rh k
  | .slotExpect => s.slotExpect &&& 0x0000FFFF#32
  | .slotTag => s.slotTag &&& 0x00FFFFFF#32
  | .slotLen => s.slotLen &&& 0x0000FFFF#32
  | .slotResp => s.slotResp
  | .slotCrc => s.slotCrc
  | .tmSeq => tmHead s (fun e => e.seq)
  | .tmTimeLo => tmHead s (fun e => e.time.extractLsb' 0 32)
  | .tmTimeHi => tmHead s (fun e => e.time.extractLsb' 32 32)
  | .tmCrc => tmHead s (fun e => e.crc)
  | .tmCount => 0#24 ++ BitVec.ofNat 8 s.tmFifo.length
  | .tmNextSeq => s.tmNextSeq
  | .dt k => s.dt[k] &&& dtMask
  | .cnt k => cntGet s.cnt k
  | .scan => scanWord s.rx
  | .scanRem => scanRemWord s.rx
  | .txStat => txStatWord s.tx
  | .slotText j => Memory.word s.slotText (4 * j.val)
  | .tmBody j => tmHead s (fun e => Memory.word e.body (4 * j.val))
  | .txBody j => Memory.word s.txBody (4 * j.val)
  | .reserved => 0#32

/-- A host write of `v` to a register other than CMD (47_control.md R374). Read-only registers and reserved offsets ignore
it; CMD stores nothing, and its operation is `runCommand` (Agents). -/
def writeReg (r : Reg) (v : Word) (s : State) : State :=
  match r with
  | .ctrl => { s with ctrl := v &&& ctrlMask }
  | .status => clearSticky v s
  | .irqEn => { s with irqEn := v &&& irqMask }
  | .sync => { s with sync := v }
  | .crcAcc => { s with crcAcc := v }
  | .hbuf k => { s with hbuf := Memory.writeWord s.hbuf (4 * k.val) v }
  | .hf k => { s with hf := hdrSet s.hf k v }
  | .dt k => { s with dt := s.dt.set k.val (v &&& dtMask) }
  | .txBody j => { s with txBody := Memory.writeWord s.txBody (4 * j.val) v }
  | .id => s
  | .cmd => s
  | .result => s
  | .rh _ => s
  | .slotExpect => s
  | .slotTag => s
  | .slotLen => s
  | .slotResp => s
  | .slotCrc => s
  | .tmSeq => s
  | .tmTimeLo => s
  | .tmTimeHi => s
  | .tmCrc => s
  | .tmCount => s
  | .tmNextSeq => s
  | .cnt _ => s
  | .scan => s
  | .scanRem => s
  | .txStat => s
  | .slotText _ => s
  | .tmBody _ => s
  | .reserved => s

/-- Byte `a` of the host's register window: byte `a mod 4` of the word that stands there (20_memory.md R107). -/
def spaceByte (s : State) (a : Nat) : Byte := (readReg (regAtWord (a / 4)) s).extractLsb' (8 * (a % 4)) 8

end Sys2Proof.Machine
end

