-- ==== Sys2Proof/Machine/Agents.lean ====
section
/-! DEFINITION. What each agent's turn does (20_memory.md R100–R104). -/

namespace Sys2Proof.Machine

/-- An operation word with an illegal opcode: `result(ILLEGAL, 0)` and no other effect (30_encoding.md R144). -/
def execIllegal (opc : Byte) (s : State) : State := result opc .illegal 0 s

/-- A host write of `w` to CMD launches the operation `w` (10_state.md R46): one of the 17, or ILLEGAL (30_encoding.md R144). -/
def runCommand (w : Word) (s : State) : Out :=
  match decode w with
  | .ok i => exec i s
  | .error _ => .next (execIllegal (opcField w) s)

/-- A host access the interface does not have is refused, with its reason (20_memory.md R106; log entry 6, DEDUCED, safe); any other goes on. -/
def checkAccess (off : Offset) (width : Nat) (go : Out) : Out :=
  if accessWhole width = false then .refused (.notWholeWord width)
  else if accessAligned off = false then .refused (.misaligned off)
  else go

/-- `MemRead(off, width)` (20_memory.md R101, 47_control.md R373): the host gets the word; the block is unchanged. -/
def hostRead (off : Offset) (width : Nat) (s : State) : Out :=
  checkAccess off width
    (.next { s with env := { s.env with hostGot := s.env.hostGot ++ [readReg (regAt off) s] } })

/-- `MemWrite(off, width, v)` (20_memory.md R101, 47_control.md R374). -/
def hostWrite (off : Offset) (width : Nat) (v : Word) (s : State) : Out :=
  checkAccess off width
    (if regAt off = .cmd then runCommand v s else .next (writeReg (regAt off) v s))

/-- One turn (20_memory.md R100). -/
def runTurn (t : Turn) (s : State) : Out :=
  match t with
  | .hostRead off width => hostRead off width s
  | .hostWrite off width v => hostWrite off width v s
  | .rxe => .next (rxeStep s)
  | .txe => .next (txeStep s)
  | .envRx b => .next { s with env := { s.env with rxStream := s.env.rxStream ++ [b] } }
  | .envTime t => .next { s with env := { s.env with timeIn := t } }
  | .reset => .next (blockReset s)

/-- Whose turn it is: the first of the chosen turns, or a free one where none is chosen (log entry 1). -/
def turnOf (s : State) : Turn :=
  match s.env.agenda with
  | [] => Config.freeTurn s.env.draws
  | t :: _ => t

/-- The state once that turn is taken off the agenda, or the free draw counted. -/
def afterTurn (s : State) : State :=
  match s.env.agenda with
  | [] => { s with env := { s.env with draws := s.env.draws + 1 } }
  | _ :: ts => { s with env := { s.env with agenda := ts } }

/-- One step: whose turn it is, and what that turn does. -/
def takeTurn (s : State) : Out := runTurn (turnOf s) (afterTurn s)

/-- The host writes the operation word to CMD as the very next turn. -/
def issueNext (w : Word) (s : State) : State :=
  { s with env := { s.env with agenda := .hostWrite cmdOffset 4 w :: s.env.agenda } }

end Sys2Proof.Machine
end

