-- ==== Sys2Proof/Machine/Step.lean ====
section
/-! DEFINITION. The step, and where the next operation word stands. -/

namespace Sys2Proof.Machine

/-- One step of the machine: one atomic transition of one agent (20_memory.md R100, 00_scope.md R12). -/
def step (s : State) : Host.Outcome State Fault Refusal := takeTurn s

/-- `s` with the host's write of that operation word to CMD as the very next turn: the block fetches no instructions
(10_state.md R32), the host supplies each operation (log entry 5). -/
def State.withFetchWord (s : State) (nbits w : Nat) : State := issueNext (tableWord nbits w) s

end Sys2Proof.Machine
end

