-- ==== Sys2Proof/Machine/Layouts.lean ====
section
/-! DEFINITION. The wire frame's layout and the message catalogue (30_encoding.md R130–R135, R160–R164). The catalogue is
informational: the block builds no body and carries telemetry bodies raw; these tables serve claims and readers only. -/

namespace Sys2Proof.Machine

/-! ## Header fields (30_encoding.md R131, 10_state.md R50) -/

/-- messageID. -/
def HdrWords.msgId (f : HdrWords) : Half := f.f0.extractLsb' 0 16
/-- messageType. -/
def HdrWords.msgType (f : HdrWords) : Byte := f.f0.extractLsb' 16 8
/-- portAddress. -/
def HdrWords.port (f : HdrWords) : Byte := f.f0.extractLsb' 24 8
/-- bodyLength, excludes the CRC. -/
def HdrWords.bodyLen (f : HdrWords) : Half := f.f1.extractLsb' 0 16
/-- sequence. -/
def HdrWords.sequence (f : HdrWords) : Half := f.f1.extractLsb' 16 16
/-- idleTime. -/
def HdrWords.idleTime (f : HdrWords) : Byte := f.f2.extractLsb' 0 8
/-- timeStatus. -/
def HdrWords.timeStatus (f : HdrWords) : Byte := f.f2.extractLsb' 8 8
/-- week. -/
def HdrWords.week (f : HdrWords) : Half := f.f2.extractLsb' 16 16
/-- ms, two's complement (00_scope.md R9); the block never interprets it. -/
def HdrWords.ms (f : HdrWords) : Int := f.f3.toInt
/-- receiverStatus. -/
def HdrWords.rxStatus (f : HdrWords) : Word := f.f4
/-- reserved. -/
def HdrWords.reserved (f : HdrWords) : Half := f.f5.extractLsb' 0 16
/-- swVersion. -/
def HdrWords.swVersion (f : HdrWords) : Half := f.f5.extractLsb' 16 16

/-! ## Frames (30_encoding.md R130, R132, R133) -/

/-- The wire frame with header fields `f` and the given body under SYNC: its BODY_LEN is the body's length and its trailer
is the CRC of header and body. -/
def wireFrame (sync : Word) (f : HdrWords) (body : List Byte) : List Byte :=
  sealFrame (pack sync (withBodyLen f body.length)) body

/-- A frame's length from its bodyLength field (30_encoding.md R130). -/
def frameLength (l : Half) : Nat := 32 + l.toNat

/-- A header that passes validation under SYNC (30_encoding.md R132): its four first bytes are SYNC's. -/
def headerValid (sync : Word) (h : List Byte) : Bool :=
  h.length == 28 && h.take 4 == bytesLE32 sync

/-! ## Message-type byte (30_encoding.md R135) -/

/-- Bit DUAL_RESP_BIT: a response message. The block reads no other bit of the byte. -/
def isResponse (msgType : Byte) : Bool := msgType.getLsbD Config.hw.dualRespBit

/-! ## Catalogue (30_encoding.md R160, R163, R164) -/

/-- The seven command kinds (30_encoding.md R160, 90_conflicts.md C1). -/
inductive Command where
  | unlogAll | setSerial | requestLog | setDynamics | resetReceiver | saveConfig | setSbas
deriving DecidableEq, Repr

/-- A command's message ID (30_encoding.md R160). -/
def Command.msgId : Command → Half
  | .unlogAll => 38
  | .setSerial => 4
  | .requestLog => 1
  | .setDynamics => 258
  | .resetReceiver => 18
  | .saveConfig => 19
  | .setSbas => 652

/-- The widths in bytes of a command body's fields, in order (30_encoding.md R164). -/
def Command.fieldWidths : Command → List Nat
  | .unlogAll => [4, 4]
  | .setSerial => [4, 4, 4, 4, 4, 4, 4, 4]
  | .requestLog => [4, 2, 1, 1, 4, 8, 8, 4]
  | .setDynamics => [4]
  | .resetReceiver => [4]
  | .saveConfig => []
  | .setSbas => [4, 4, 4, 4]

/-- Fields with no padding between them: the offset of each, and the total. -/
def offsetsFrom : Nat → List Nat → List Nat
  | a, [] => [a]
  | a, w :: ws => a :: offsetsFrom (a + w) ws

/-- A command body's length (30_encoding.md R160, R164). -/
def Command.bodyBytes (c : Command) : Nat := c.fieldWidths.sum

/-- The widths in bytes of the telemetry body's fields, in the order of 30_encoding.md R163. -/
def tmFieldWidths : List Nat :=
  [4, 4, 8, 8, 8, 4, 4, 4, 4, 4, 8, 8, 8, 4, 4, 4, 4, 4, 4, 4, 1, 1, 1, 1, 1, 1, 1, 1]

end Sys2Proof.Machine
end

