-- ==== Sys2Proof/Safety.lean ====
section
/-! DEFINITION. What counts as a safe run, in the terms claims use: the invariant of the block's state, runs of one
agent, and what each operation may change. -/

namespace Sys2Proof.Machine

/-! ## The invariant -/

/-- Reserved bits of the stored registers are 0 (10_state.md R31, R41, R43, R44, R52–R54, R62). -/
abbrev reservedZero (s : State) : Prop :=
  s.ctrl &&& ~~~ctrlMask = 0#32 ∧ s.sticky &&& ~~~stickyMask = 0#32 ∧ s.irqEn &&& ~~~irqMask = 0#32 ∧
  s.slotExpect &&& 0xFFFF0000#32 = 0#32 ∧ s.slotTag &&& 0xFF000000#32 = 0#32 ∧ s.slotLen &&& 0xFFFF0000#32 = 0#32 ∧
  ∀ k : Fin Config.hw.dtEntries, s.dt[k] &&& ~~~dtMask = 0#32

/-- Every buffer is in canonical form and inside its size (10_state.md R49, R67, R70, R71, R73), and SLOT_TEXT reads 0 from
min(T, TEXT_MAX) on (R57). -/
abbrev buffersOk (s : State) : Prop :=
  Memory.ok 28 s.hbuf = true ∧ Memory.ok Config.hw.txBodyMax s.txBody = true ∧
  Memory.ok (32 + Config.hw.txBodyMax) s.tx.buf = true ∧
  Memory.ok (min s.slotLen.toNat Config.hw.textMax) s.slotText = true ∧
  Memory.ok 28 s.rx.hbuf = true ∧ Memory.ok 4 s.rx.resp = true ∧ Memory.ok Config.hw.textMax s.rx.text = true ∧
  Memory.ok Config.hw.tmBodyBytes s.rx.tmbody = true ∧ Memory.ok 4 s.rx.rcrc = true ∧
  ∀ e ∈ s.tmFifo, Memory.ok Config.hw.tmBodyBytes e.body = true

/-- TX_LEN is 0 or 32 to 32 + TX_BODY_MAX, and TX_POS is at most TX_LEN (10_state.md R66). -/
abbrev txOk (t : Tx) : Prop := (t.len = 0 ∨ 32 ≤ t.len ∧ t.len ≤ 32 + Config.hw.txBodyMax) ∧ t.pos ≤ t.len

/-- The telemetry FIFO holds at most TM_FIFO_DEPTH entries (10_state.md R73). -/
abbrev fifoOk (s : State) : Prop := s.tmFifo.length ≤ Config.hw.tmFifoDepth

/-- Before the header is complete, only rx_hbuf, rx_hcnt and rx_state differ from a cleared frame. -/
abbrev collecting (r : Rx) : Prop := r = { Rx.cleared with state := r.state, hbuf := r.hbuf, hcnt := r.hcnt }

/-- The scanner's position (10_state.md R64, R65, R70): a cleared frame in HUNT, HCNT 1 in SYNC2, 2 in SYNC3, 3 to 27 in HDR,
28 in BODY and DISCARD, where the class is one that state consumes and bytes of the frame are left. -/
abbrev rxOk (r : Rx) : Prop :=
  (r.state = .hunt → r = Rx.cleared) ∧
  (r.state = .sync2 → collecting r ∧ r.hcnt = 1) ∧
  (r.state = .sync3 → collecting r ∧ r.hcnt = 2) ∧
  (r.state = .hdr → collecting r ∧ 3 ≤ r.hcnt ∧ r.hcnt ≤ 27) ∧
  (r.state = .body → r.hcnt = 28 ∧ r.pos < r.consume ∧
    (r.cls = .order ∧ r.textLen = r.bodyLen.toNat - 4 ∧ r.consume = r.textLen + 8 ∨
     r.cls = .telem ∧ r.textLen = 0 ∧ r.consume = r.bodyLen.toNat + 4)) ∧
  (r.state = .discard → r.hcnt = 28 ∧ r.pos < r.consume ∧ r.textLen = 0 ∧
    (r.cls = .skip ∧ r.consume = r.bodyLen.toNat + 4 ∨
     r.cls = .info ∧ (r.consume = 8 ∨ r.consume = r.bodyLen.toNat + 4)))

/-- A state in which everything the spec says holds at every moment holds. -/
abbrev Inv (s : State) : Prop := reservedZero s ∧ buffersOk s ∧ txOk s.tx ∧ fifoOk s ∧ rxOk s.rx

/-- The sequence numbers in the FIFO are consecutive and end just below TM_NEXTSEQ (45_telemetry.md R337 (a)). -/
def SeqConsecutive (s : State) : Prop :=
  ∀ (k : Nat) (h : k < s.tmFifo.length),
    (s.tmFifo[k]).seq = s.tmNextSeq - BitVec.ofNat 32 (s.tmFifo.length - k)

/-! ## Runs of one agent -/

/-- RXE takes these bytes one after another (42_frame_scanner.md R222), whether or not it is enabled. -/
def rxBytes : List Byte → State → State
  | [], s => s
  | b :: bs, s => rxBytes bs (rxByte b s)

/-- `n` TXE turns (46_transmit.md R353). -/
def txeSteps : Nat → State → State
  | 0, s => s
  | n + 1, s => txeSteps n (txeStep s)

/-- `n` RXE turns (20_memory.md R102). -/
def rxeSteps : Nat → State → State
  | 0, s => s
  | n + 1, s => rxeSteps n (rxeStep s)

/-! ## What an operation may change -/

/-- The registers an operation may change, by the "Flags written" line of its rule: RESULT and STATUS always, and those
listed. Every other register of the map reads the same after it. -/
def mayChange (i : Instr) (r : Reg) : Bool :=
  match r with
  | .result => true
  | .status => true
  | .crcAcc => match i with
    | .crcInit | .crcByte _ | .crcHbuf | .crcTxbody _ => true
    | _ => false
  | .hbuf _ => match i with
    | .hdrPack | .txSend _ | .txIssue _ => true
    | _ => false
  | .hf k => match i with
    | .hdrUnpack => true
    | .txSend _ | .txIssue _ => k == 1
    | _ => false
  | .slotExpect => match i with
    | .slotArm _ | .txIssue _ => true
    | _ => false
  | .tmSeq | .tmTimeLo | .tmTimeHi | .tmCrc | .tmCount | .tmBody _ => match i with
    | .tmPop => true
    | _ => false
  | .cnt _ => match i with
    | .cntClear => true
    | _ => false
  | .scan | .scanRem => match i with
    | .scanReset => true
    | _ => false
  | .txStat => match i with
    | .txSend _ | .txIssue _ => true
    | _ => false
  | _ => false

end Sys2Proof.Machine
end

