-- ==== Sys2Proof/Certificates/Slice0/Obligations.lean ====
section
/-! DEFINITION. Statements for the provers. Each docstring names the rules of spec/ the statement formalises. A state with
field updates written out after `exec i s = .next` is the whole next state: every field not named there is unchanged, so the
equation is the instruction's result, its frame and its completion at once. The clause about `decode` beside it is the rule's
encoding line: whatever the fields the operation does not read, the word is that operation. -/

open Sys2Proof Sys2Proof.Machine

/-! ## Encoding -/

/-- 30_encoding.md R140, R143: decoding the word of a well-formed operation gives that operation. -/
def Obligations.DecodeEncodeAgree : Prop :=
  ∀ i : Instr, i.wf = true → decode (encode i) = .ok i

/-- 30_encoding.md R140, R145: every word that agrees with an operation's word on the bits the operation reads is that
operation; every value of an unread field gives the same operation. -/
def Obligations.UnreadFieldsIgnored : Prop :=
  ∀ (i : Instr) (w : Word), i.wf = true → w &&& readMask i = encode i → decode w = .ok i

/-- 30_encoding.md R144: the illegal opcodes are exactly the listed ones, and writing such a word to CMD performs
`result(ILLEGAL, 0)` and nothing else. -/
def Obligations.IllegalOpcodes : Prop :=
  ∀ (w : Word) (s : State),
    let n := (w.extractLsb' 0 8).toNat
    let listed := 0x05 ≤ n ∧ n ≤ 0x0F ∨ 0x12 ≤ n ∧ n ≤ 0x1F ∨ 0x22 ≤ n ∧ n ≤ 0x2F ∨ 0x34 ≤ n ∧ n ≤ 0x3F ∨
      0x41 ≤ n ∧ n ≤ 0x4F ∨ 0x51 ≤ n ∧ n ≤ 0x5F ∨ 0x62 ≤ n ∧ n ≤ 0xFF
    ((∃ i, decode w = .ok i) ↔ ¬listed) ∧
    (listed → hostWrite 0x014#12 4 w s =
      .next { s with result := 0#16 ++ w.extractLsb' 0 8 ++ 0x04#8, sticky := s.sticky ||| 0x00010000#32 })

/-- 30_encoding.md R140, R143, R146: words written out from the encoding decode to the operations they stand for; a word
whose opcode byte is 0x05 is none. -/
def Obligations.WrittenWordsDecode : Prop :=
  decode 0x00003102#32 = .ok (.crcByte 0x31#8) ∧ decode 0x00080004#32 = .ok (.crcTxbody 8) ∧
  decode 0x00000011#32 = .ok .hdrUnpack ∧ decode 0x00080021#32 = .ok (.txIssue 8) ∧
  decode 0x00260030#32 = .ok (.slotArm 38#16) ∧ decode 0x00000040#32 = .ok .tmPop ∧
  decode 0x00260050#32 = .ok (.dtLookup 38#16) ∧ decode 0x00000060#32 = .ok .scanReset ∧
  decode 0xFFFFFF05#32 = .error (.illegalOpcode 0x05#8)

/-! ## A step runs the operation -/

/-- 10_state.md R46, 20_memory.md R100, R101: when the next turn is the host's write to CMD of a word that decodes to a well-formed
operation, the step is that operation on the state with the turn taken off; any other chosen turn is taken likewise; where no turn
is chosen, the step is a free turn and the draw is counted (the agenda and the draws are the model's, log entry 1). -/
def Obligations.StepRunsDecodedOperation : Prop :=
  (∀ (s : State) (w : Word) (i : Instr) (ts : List Turn),
    decode w = .ok i → i.wf = true → s.env.agenda = .hostWrite 0x014#12 4 w :: ts →
    step s = exec i { s with env := { s.env with agenda := ts } }) ∧
  (∀ (s : State) (t : Turn) (ts : List Turn), s.env.agenda = t :: ts →
    step s = runTurn t { s with env := { s.env with agenda := ts } }) ∧
  ∀ s : State, s.env.agenda = [] →
    step s = runTurn (Config.freeTurn s.env.draws) { s with env := { s.env with draws := s.env.draws + 1 } }

/-! ## CRC-32 generator -/

/-- 40_crc.md R183. -/
def Obligations.CrcInitResult : Prop :=
  (∀ w : Word, w.extractLsb' 0 8 = 0x01#8 → decode w = .ok .crcInit) ∧
  ∀ s : State, exec .crcInit s = .next { s with crcAcc := 0x00000000#32, result := 0x00000100#32 }

/-- 40_crc.md R184. -/
def Obligations.CrcByteResult : Prop :=
  (∀ w : Word, w.extractLsb' 0 8 = 0x02#8 → decode w = .ok (.crcByte (w.extractLsb' 8 8))) ∧
  ∀ (b : Byte) (s : State),
    exec (.crcByte b) s = .next { s with crcAcc := crcStep s.crcAcc b, result := 0x00000200#32 }

/-- 40_crc.md R185. -/
def Obligations.CrcHbufResult : Prop :=
  (∀ w : Word, w.extractLsb' 0 8 = 0x03#8 → decode w = .ok .crcHbuf) ∧
  ∀ s : State,
    exec .crcHbuf s = .next { s with crcAcc := crcUpdate s.crcAcc (Memory.bytes s.hbuf 0 28), result := 0x00000300#32 }

/-- 40_crc.md R186: above 256 bytes RANGE and nothing else but OP_ERR, otherwise the fold over the first n bytes of TX_BODY. -/
def Obligations.CrcTxbodyResult : Prop :=
  (∀ w : Word, w.extractLsb' 0 8 = 0x04#8 → decode w = .ok (.crcTxbody (w.extractLsb' 16 16).toNat)) ∧
  ∀ (n : Nat) (s : State),
    exec (.crcTxbody n) s =
      if 256 < n then .next { s with result := 0x00000405#32, sticky := s.sticky ||| 0x00010000#32 }
      else .next { s with crcAcc := crcUpdate s.crcAcc (Memory.bytes s.txBody 0 n), result := 0x00000400#32 }

/-- 40_crc.md R182: the CRC of every frame starts at 0 with no final XOR, and the check value. -/
def Obligations.CrcCheckValue : Prop :=
  (∀ bs : List Byte, crc bs = crcUpdate 0#32 bs) ∧
  crc [0x31#8, 0x32#8, 0x33#8, 0x34#8, 0x35#8, 0x36#8, 0x37#8, 0x38#8, 0x39#8] = 0x2DFD2D88#32

/-- 40_crc.md R187: the table form, and its sample entries. -/
def Obligations.CrcTableForm : Prop :=
  (∀ (c : Word) (b : Byte),
    crcStep c b = (c >>> 8) ^^^ crcStep 0#32 ((c ^^^ b.setWidth 32).extractLsb' 0 8)) ∧
  crcStep 0#32 0x00#8 = 0x00000000#32 ∧ crcStep 0#32 0x01#8 = 0x77073096#32 ∧
  crcStep 0#32 0x80#8 = 0xEDB88320#32 ∧ crcStep 0#32 0xFF#8 = 0x2D02EF8D#32

/-- 40_crc.md R188 (a)–(d): the empty span, invisible leading zeros, the residue and linearity. -/
def Obligations.CrcLaws : Prop :=
  crc [] = 0#32 ∧
  (∀ (k : Nat) (bs : List Byte), crc (List.replicate k 0#8 ++ bs) = crc bs) ∧
  (∀ bs : List Byte, crc (bs ++ bytesLE32 (crc bs)) = 0#32) ∧
  ∀ bs cs : List Byte, bs.length = cs.length → crc (List.zipWith (· ^^^ ·) bs cs) = crc bs ^^^ crc cs

/-! ## Header codec -/

/-- 41_header_codec.md R203. -/
def Obligations.HdrPackResult : Prop :=
  (∀ w : Word, w.extractLsb' 0 8 = 0x10#8 → decode w = .ok .hdrPack) ∧
  ∀ s : State,
    exec .hdrPack s = .next { s with hbuf := Memory.writeBytes s.hbuf 0 (pack s.sync s.hf), result := 0x00001000#32 }

/-- 41_header_codec.md R204: FRAMING leaves HF, STATUS.FRAMING and CNT_FRAMING alone. -/
def Obligations.HdrUnpackResult : Prop :=
  (∀ w : Word, w.extractLsb' 0 8 = 0x11#8 → decode w = .ok .hdrUnpack) ∧
  ∀ s : State,
    exec .hdrUnpack s =
      if Memory.word s.hbuf 0 = s.sync then
        .next { s with
          hf := { f0 := Memory.word s.hbuf 4, f1 := Memory.word s.hbuf 8, f2 := Memory.word s.hbuf 12,
                  f3 := Memory.word s.hbuf 16, f4 := Memory.word s.hbuf 20, f5 := Memory.word s.hbuf 24 }
          result := 0x00001100#32 }
      else .next { s with result := 0x00001108#32, sticky := s.sticky ||| 0x00010000#32 }

/-- 41_header_codec.md R202: unpack after pack gives the fields back, and pack after unpack gives the bytes back. -/
def Obligations.HeaderRoundTrip : Prop :=
  (∀ (sync : Word) (f : HdrWords), unpack (Memory.writeBytes [] 0 (pack sync f)) sync = some f) ∧
  ∀ (sync : Word) (f : HdrWords) (h : List Byte), h.length = 28 →
    unpack (Memory.writeBytes [] 0 h) sync = some f → pack sync f = h

/-- 41_header_codec.md R200, 30_encoding.md R131: the packed header field by field, in the header's layout. -/
def Obligations.PackFieldByField : Prop :=
  ∀ (sync : Word) (f : HdrWords),
    pack sync f =
      [sync.extractLsb' 0 8, sync.extractLsb' 8 8, sync.extractLsb' 16 8, sync.extractLsb' 24 8] ++
      bytesLE16 f.msgId ++ [f.msgType, f.port] ++ bytesLE16 f.bodyLen ++ bytesLE16 f.sequence ++
      [f.idleTime, f.timeStatus] ++ bytesLE16 f.week ++ bytesLE32 f.f3 ++ bytesLE32 f.rxStatus ++
      bytesLE16 f.reserved ++ bytesLE16 f.swVersion

/-! ## Transmit -/

/-- 46_transmit.md R350 with R352: BUSY is checked before RANGE; otherwise the frame is built and the length reported. -/
def Obligations.TxSendResult : Prop :=
  (∀ w : Word, w.extractLsb' 0 8 = 0x20#8 → decode w = .ok (.txSend (w.extractLsb' 16 16).toNat)) ∧
  ∀ (n : Nat) (s : State),
    exec (.txSend n) s =
      if s.tx.pos < s.tx.len then .next { s with result := 0x00002001#32, sticky := s.sticky ||| 0x00010000#32 }
      else if 256 < n then .next { s with result := 0x00002005#32, sticky := s.sticky ||| 0x00010000#32 }
      else
        let f := { s.hf with f1 := s.hf.f1.extractLsb' 16 16 ++ BitVec.ofNat 16 n }
        let header := pack s.sync f
        let body := Memory.bytes s.txBody 0 n
        .next { s with
          hf := f
          hbuf := Memory.writeBytes s.hbuf 0 header
          tx := { buf := Memory.writeBytes s.tx.buf 0 (header ++ body ++ bytesLE32 (crc (header ++ body)))
                  len := 32 + n
                  pos := 0 }
          result := BitVec.ofNat 16 (32 + n) ++ 0x20#8 ++ 0x00#8 }

/-- 46_transmit.md R351 with R352: BUSY while sending, BUSY while a command is pending, RANGE, in that order; otherwise the frame
is built and its ID becomes the outstanding command. -/
def Obligations.TxIssueResult : Prop :=
  (∀ w : Word, w.extractLsb' 0 8 = 0x21#8 → decode w = .ok (.txIssue (w.extractLsb' 16 16).toNat)) ∧
  ∀ (n : Nat) (s : State),
    exec (.txIssue n) s =
      if s.tx.pos < s.tx.len then .next { s with result := 0x00002101#32, sticky := s.sticky ||| 0x00010000#32 }
      else if s.pending = true then .next { s with result := 0x00002101#32, sticky := s.sticky ||| 0x00010000#32 }
      else if 256 < n then .next { s with result := 0x00002105#32, sticky := s.sticky ||| 0x00010000#32 }
      else
        let f := { s.hf with f1 := s.hf.f1.extractLsb' 16 16 ++ BitVec.ofNat 16 n }
        let header := pack s.sync f
        let body := Memory.bytes s.txBody 0 n
        .next { s with
          hf := f
          hbuf := Memory.writeBytes s.hbuf 0 header
          tx := { buf := Memory.writeBytes s.tx.buf 0 (header ++ body ++ bytesLE32 (crc (header ++ body)))
                  len := 32 + n
                  pos := 0 }
          slotExpect := (s.hf.f0.extractLsb' 0 16).setWidth 32
          pending := true
          result := BitVec.ofNat 16 (32 + n) ++ 0x21#8 ++ 0x00#8 }

/-- 46_transmit.md R353: an enabled TXE step emits tx_buf[tx_pos] and advances; one that is not enabled changes nothing. -/
def Obligations.TxeStepEmits : Prop :=
  ∀ s : State,
    runTurn .txe s = .next (txeStep s) ∧
    txeStep s =
      if s.tx.pos < s.tx.len then
        { s with
          tx := { s.tx with pos := s.tx.pos + 1 }
          env := { s.env with txWire := s.env.txWire ++ [Memory.read s.tx.buf s.tx.pos] } }
      else s

/-- 46_transmit.md R352 (frame law), R353: after an accepted TX_SEND, 32 + n TXE steps put exactly the frame on the wire: TX_BUSY
holds before each of them and not after the last. -/
def Obligations.SentFrameOnWire : Prop :=
  ∀ (n : Nat) (s : State), Memory.wf s.tx.buf = true → s.tx.len ≤ s.tx.pos → n ≤ 256 →
    ∃ t, exec (.txSend n) s = .next t ∧
      (∀ k, k < 32 + n → txBusy (txeSteps k t) = true) ∧
      txBusy (txeSteps (32 + n) t) = false ∧
      (txeSteps (32 + n) t).env.txWire =
        s.env.txWire ++
          (pack s.sync (withBodyLen s.hf n) ++ Memory.bytes s.txBody 0 n ++
            bytesLE32 (crc (pack s.sync (withBodyLen s.hf n) ++ Memory.bytes s.txBody 0 n)))

/-- 46_transmit.md R354: while a frame is being sent, no turn but TXE's own and reset changes the frame or the position in it:
no register write, no operation, no receive step. -/
def Obligations.SendingFrameIsSnapshot : Prop :=
  ∀ (t : Turn) (s s' : State), txBusy s = true → t ≠ .txe → t ≠ .reset → runTurn t s = .next s' → s'.tx = s.tx

/-! ## Response correlator -/

/-- 44_correlator.md R310. -/
def Obligations.SlotArmResult : Prop :=
  (∀ w : Word, w.extractLsb' 0 8 = 0x30#8 → decode w = .ok (.slotArm (w.extractLsb' 16 16))) ∧
  ∀ (x : Half) (s : State),
    exec (.slotArm x) s =
      if s.pending = true then .next { s with result := 0x00003001#32, sticky := s.sticky ||| 0x00010000#32 }
      else .next { s with slotExpect := x.setWidth 32, pending := true, result := 0x00003000#32 }

/-- 44_correlator.md R311: EMPTY leaves the slot and PENDING alone; any other take empties both and checks UNSOLICITED, MISMATCH,
RESP_ERROR in that order. -/
def Obligations.SlotTakeResult : Prop :=
  (∀ w : Word, w.extractLsb' 0 8 = 0x31#8 → decode w = .ok .slotTake) ∧
  ∀ s : State,
    let tag := s.slotTag.extractLsb' 0 16
    let taken := { s with slotValid := false, pending := false }
    exec .slotTake s =
      if s.slotValid = false then .next { s with result := 0x00003102#32, sticky := s.sticky ||| 0x00010000#32 }
      else if s.pending = false then
        .next { taken with result := tag ++ 0x31#8 ++ 0x07#8, sticky := s.sticky ||| 0x00010000#32 }
      else if tag ≠ s.slotExpect.extractLsb' 0 16 then
        .next { taken with result := tag ++ 0x31#8 ++ 0x03#8, sticky := s.sticky ||| 0x00010000#32 }
      else if s.slotResp ≠ 0x00000001#32 then
        .next { taken with result := tag ++ 0x31#8 ++ 0x06#8, sticky := s.sticky ||| 0x00010000#32 }
      else .next { taken with result := tag ++ 0x31#8 ++ 0x00#8 }

/-- 44_correlator.md R312, R313. -/
def Obligations.SlotCancelAndFlushResult : Prop :=
  (∀ w : Word, w.extractLsb' 0 8 = 0x32#8 → decode w = .ok .slotCancel) ∧
  (∀ w : Word, w.extractLsb' 0 8 = 0x33#8 → decode w = .ok .slotFlush) ∧
  ∀ s : State,
    exec .slotCancel s = .next { s with pending := false, result := 0x00003200#32 } ∧
    exec .slotFlush s = .next { s with slotValid := false, result := 0x00003300#32 }

/-- 44_correlator.md R304: a full slot drops the order and counts it; otherwise the slot registers take the order, SLOT_LEN keeps
the untruncated length, SLOT_TEXT holds its first 256 bytes and 0 beyond, and a longer text raises TEXT_TRUNC. -/
def Obligations.DepositOrder : Prop :=
  ∀ (rc : Word) (s : State),
    (s.slotValid = true → deposit rc s =
      { s with sticky := s.sticky ||| 0x00004000#32, cnt := { s.cnt with orddrop := s.cnt.orddrop + 1 } }) ∧
    (s.slotValid = false → Memory.wf s.rx.text = true →
      ∃ m, (∀ i, Memory.read m i = if i < min s.rx.textLen 256 then Memory.read s.rx.text i else 0#8) ∧
        deposit rc s =
          { s with
            slotTag := 0#8 ++ s.rx.msgType ++ s.rx.msgId
            slotLen := BitVec.ofNat 32 s.rx.textLen
            slotResp := le32 (Memory.read s.rx.resp 0) (Memory.read s.rx.resp 1) (Memory.read s.rx.resp 2) (Memory.read s.rx.resp 3)
            slotCrc := rc
            slotText := m
            slotValid := true
            sticky := if 256 < s.rx.textLen then s.sticky ||| 0x00002000#32 else s.sticky })

/-- 44_correlator.md R302, R314 (a): while a command is pending, no turn but reset changes SLOT_EXPECT; SLOT_ARM and TX_ISSUE are
refused with BUSY, and a refusal changes nothing but RESULT and STATUS.OP_ERR. -/
def Obligations.OneOutstandingCommand : Prop :=
  ∀ s : State, s.pending = true →
    (∀ (t : Turn) (s' : State), t ≠ .reset → runTurn t s = .next s' → s'.slotExpect = s.slotExpect) ∧
    (∀ x, exec (.slotArm x) s = .next { s with result := 0x00003001#32, sticky := s.sticky ||| 0x00010000#32 }) ∧
    ∀ n, exec (.txIssue n) s = .next { s with result := 0x00002101#32, sticky := s.sticky ||| 0x00010000#32 }

/-- 44_correlator.md R304, 70_reset_and_hazards.md R452: while SLOT_VALID = 1 no receive step changes the slot: it never replaces
the order already held. -/
def Obligations.HeldOrderIsStable : Prop :=
  ∀ (b : Byte) (s : State), s.slotValid = true →
    let t := rxByte b s
    t.slotValid = true ∧ t.slotTag = s.slotTag ∧ t.slotLen = s.slotLen ∧ t.slotResp = s.slotResp ∧ t.slotCrc = s.slotCrc ∧
    t.slotText = s.slotText

/-! ## Telemetry -/

/-- 45_telemetry.md R335. -/
def Obligations.TmPopResult : Prop :=
  (∀ w : Word, w.extractLsb' 0 8 = 0x40#8 → decode w = .ok .tmPop) ∧
  ∀ s : State,
    (s.tmFifo = [] → exec .tmPop s = .next { s with result := 0x00004002#32, sticky := s.sticky ||| 0x00010000#32 }) ∧
    ∀ e rest, s.tmFifo = e :: rest →
      exec .tmPop s = .next { s with tmFifo := rest, result := BitVec.ofNat 16 rest.length ++ 0x40#8 ++ 0x00#8 }

/-- 45_telemetry.md R331: a full FIFO drops the record, counts it and uses no sequence number (that more than 4 entries, which no
run reaches, count as full is the model's choice, log entry 13); otherwise the record becomes the
tail with the next sequence number, time_in at this step, the body and the received trailer. -/
def Obligations.TelemetryAccept : Prop :=
  ∀ (rc : Word) (s : State),
    (4 ≤ s.tmFifo.length → tmAccept rc s =
      { s with sticky := s.sticky ||| 0x00008000#32, cnt := { s.cnt with tmdrop := s.cnt.tmdrop + 1 } }) ∧
    (s.tmFifo.length < 4 → Memory.ok 112 s.rx.tmbody = true →
      tmAccept rc s =
        { s with
          tmFifo := s.tmFifo ++ [{ seq := s.tmNextSeq, time := s.env.timeIn, body := s.rx.tmbody, crc := rc }]
          tmNextSeq := s.tmNextSeq + 1 })

/-- 45_telemetry.md R332, R336: while the FIFO is not empty, a receive step changes no head register. -/
def Obligations.HeadRecordIsStable : Prop :=
  ∀ (b : Byte) (s : State), s.tmFifo ≠ [] →
    let t := rxByte b s
    readReg .tmSeq t = readReg .tmSeq s ∧ readReg .tmTimeLo t = readReg .tmTimeLo s ∧
    readReg .tmTimeHi t = readReg .tmTimeHi s ∧ readReg .tmCrc t = readReg .tmCrc s ∧
    ∀ j, readReg (.tmBody j) t = readReg (.tmBody j) s

/-- 45_telemetry.md R337 (a), (c): every step keeps the records' sequence numbers consecutive mod 2^32 in acceptance order. -/
def Obligations.SequenceNumbersConsecutive : Prop :=
  ∀ s s' : State, SeqConsecutive s → step s = .next s' → SeqConsecutive s'

/-! ## Dispatcher -/

/-- 43_dispatcher.md R260, 10_state.md R62: the lookup answers the matching entry with the lowest index, and NONE only where no entry
matches; CLASS 0 is the order shape, 1 the telemetry shape, 2 the dual-purpose shape. -/
def Obligations.LookupLowestMatch : Prop :=
  ∀ (s : State) (x : Half),
    let hit := fun k : Fin 8 =>
      (s.dt[k]).getLsbD 31 = true ∧ (s.dt[k]).extractLsb' 16 2 ≠ 3#2 ∧ (s.dt[k]).extractLsb' 0 16 = x
    (dtLookup s x = none ↔ ∀ k, ¬hit k) ∧
    ∀ n c, dtLookup s x = some (n, c) ↔
      ∃ k : Fin 8, k.val = n ∧ hit k ∧ (∀ j, j < k → ¬hit j) ∧ c.code = (s.dt[k]).extractLsb' 16 2 ∧
        (s.dt[k]).extractLsb' 16 2 = (match c with | .order => 0#2 | .telem => 1#2 | .dual => 2#2)

/-- 43_dispatcher.md R280, with R260's lookup. -/
def Obligations.DtLookupResult : Prop :=
  (∀ w : Word, w.extractLsb' 0 8 = 0x50#8 → decode w = .ok (.dtLookup (w.extractLsb' 16 16))) ∧
  ∀ (x : Half) (s : State),
    (dtLookup s x = none →
      exec (.dtLookup x) s = .next { s with result := 0x00005009#32, sticky := s.sticky ||| 0x00010000#32 }) ∧
    ∀ k c, dtLookup s x = some (k, c) →
      exec (.dtLookup x) s = .next { s with result := (0#10 ++ c.code ++ BitVec.ofNat 4 k) ++ 0x50#8 ++ 0x00#8 }

/-- 43_dispatcher.md R261, R262, R263, 30_encoding.md R135: which class an identifier and a message type select, by the dispatch
table and, for the dual-purpose identifier, by bit 7 of the type; and for each class how many bytes it consumes after the header, in
which state, with how long a text, and what event it raises. -/
def Obligations.ConsumptionTable : Prop :=
  ∀ s : State,
    (∀ (x : Half) (ty : Byte),
      (dtLookup s x = none → classOf s x ty = .noClass) ∧
      ∀ k,
        (dtLookup s x = some (k, .order) → classOf s x ty = .order) ∧
        (dtLookup s x = some (k, .telem) → classOf s x ty = .telem) ∧
        (dtLookup s x = some (k, .dual) → ty.getLsbD 7 = true → classOf s x ty = .order) ∧
        (dtLookup s x = some (k, .dual) → ty.getLsbD 7 = false → classOf s x ty = .info)) ∧
    let l := s.rx.bodyLen.toNat
    let t := classify s
    let cls := classOf s s.rx.msgId s.rx.msgType
    let quiet := t.sticky = s.sticky ∧ t.cnt = s.cnt
    let lenErr := t.sticky = s.sticky ||| 0x00001000#32 ∧ t.cnt = { s.cnt with lenerr := s.cnt.lenerr + 1 }
    let unrec := t.sticky = s.sticky ||| 0x00000400#32 ∧ t.cnt = { s.cnt with unrec := s.cnt.unrec + 1 }
    t.rx.pos = 0 ∧
    (cls = .order → 4 ≤ l →
      t.rx.state = .body ∧ t.rx.cls = .order ∧ t.rx.consume = l + 4 ∧ t.rx.textLen = l - 4 ∧ quiet) ∧
    (cls = .order → l < 4 → alignOn s = false →
      t.rx.state = .body ∧ t.rx.cls = .order ∧ t.rx.consume = 8 ∧ t.rx.textLen = 0 ∧ quiet) ∧
    (cls = .order → l < 4 → alignOn s = true →
      t.rx.state = .discard ∧ t.rx.cls = .skip ∧ t.rx.consume = l + 4 ∧ lenErr) ∧
    (cls = .telem → t.rx.state = .body ∧ t.rx.cls = .telem ∧ t.rx.consume = l + 4 ∧
      (l = 112 → quiet ∧ t.rx.deliver = s.rx.deliver) ∧ (l ≠ 112 → lenErr ∧ t.rx.deliver = false)) ∧
    (cls = .info → t.rx.state = .discard ∧ t.rx.cls = .info ∧ quiet ∧ t.rx.consume = if alignOn s then l + 4 else 8) ∧
    (cls = .noClass → alignOn s = true →
      t.rx.state = .discard ∧ t.rx.cls = .skip ∧ t.rx.consume = l + 4 ∧ unrec) ∧
    (cls = .noClass → alignOn s = false → t.rx = Rx.cleared ∧ unrec)

/-- 43_dispatcher.md R272: the end of a frame. -/
def Obligations.FrameEndDelivery : Prop :=
  ∀ s : State,
    let rc := le32 (Memory.read s.rx.rcrc 0) (Memory.read s.rx.rcrc 1) (Memory.read s.rx.rcrc 2) (Memory.read s.rx.rcrc 3)
    frameEnd s =
      if s.ctrl.getLsbD 2 = true ∧ rc ≠ s.rx.crc then
        { s with
          rx := Rx.cleared
          sticky := s.sticky ||| 0x00000800#32
          cnt := { s.cnt with crcerr := s.cnt.crcerr + 1 } }
      else if s.rx.cls = .order then clearFrame (deposit rc s)
      else if s.rx.cls = .telem ∧ s.rx.deliver = true then clearFrame (tmAccept rc s)
      else clearFrame s

/-! ## Control operations -/

/-- 47_control.md R370. -/
def Obligations.NopResult : Prop :=
  (∀ w : Word, w.extractLsb' 0 8 = 0x00#8 → decode w = .ok .nop) ∧
  ∀ s : State, exec .nop s = .next { s with result := 0x00000000#32 }

/-- 47_control.md R371: the receive engine is as after reset, and nothing else changes. -/
def Obligations.ScanResetResult : Prop :=
  (∀ w : Word, w.extractLsb' 0 8 = 0x60#8 → decode w = .ok .scanReset) ∧
  ∀ s : State, exec .scanReset s = .next { s with rx := State.reset.rx, result := 0x00006000#32 }

/-- 47_control.md R372: the eight counters are 0; the sticky bits and TM_NEXTSEQ keep their values. -/
def Obligations.CntClearResult : Prop :=
  (∀ w : Word, w.extractLsb' 0 8 = 0x61#8 → decode w = .ok .cntClear) ∧
  ∀ s : State,
    exec .cntClear s = .next { s with
      cnt := { frames := 0, desync := 0, framing := 0, unrec := 0, crcerr := 0, lenerr := 0, tmdrop := 0, orddrop := 0 }
      result := 0x00006100#32 }

/-- The frame of every operation, register by register (the "Flags written" lines of 40_crc.md to 47_control.md): every register
of the map that the operation's rule does not name reads as before. The byte windows HBUF, SLOT_TEXT, TM_BODY and TX_BODY are
registers of the map, so this says it of every byte a host can address. -/
def Obligations.OperationFrame : Prop :=
  ∀ (i : Instr) (s t : State) (r : Reg), exec i s = .next t → mayChange i r = false → readReg r t = readReg r s

/-! ## Receive engine -/

/-- 42_frame_scanner.md R223, R224, R225, R226, 43_dispatcher.md R270, R271: one byte in HUNT, SYNC2, SYNC3, BODY or DISCARD. In
BODY each byte goes to the CRC or to the trailer, and to the response, the text (its first 256 bytes) or the telemetry body; the
last one ends the frame. In DISCARD it only counts, and the last one clears the frame. -/
def Obligations.ReceiveByteSteps : Prop :=
  ∀ (b : Byte) (s : State),
    let desync := { s with
      sticky := s.sticky ||| 0x00000100#32
      cnt := { s.cnt with desync := s.cnt.desync + 1 } }
    let restarted := if s.ctrl.getLsbD 3 = true ∧ b = s.sync.extractLsb' 0 8 then
        { desync with rx := { Rx.cleared with state := .sync2, hcnt := 1, hbuf := Memory.write [] 0 b } }
      else { desync with rx := Rx.cleared }
    (s.rx.state = .hunt → rxByte b s =
      if b = s.sync.extractLsb' 0 8 then
        { s with rx := { s.rx with state := .sync2, hcnt := 1, hbuf := Memory.write s.rx.hbuf 0 b } }
      else desync) ∧
    (s.rx.state = .sync2 → rxByte b s =
      if b = s.sync.extractLsb' 8 8 then
        { s with rx := { s.rx with state := .sync3, hcnt := 2, hbuf := Memory.write s.rx.hbuf 1 b } }
      else restarted) ∧
    (s.rx.state = .sync3 → rxByte b s =
      if b = s.sync.extractLsb' 16 8 then
        { s with rx := { s.rx with state := .hdr, hcnt := 3, hbuf := Memory.write s.rx.hbuf 2 b } }
      else restarted) ∧
    (s.rx.state = .body → 4 ≤ s.rx.consume → (s.rx.cls = .order ∨ s.rx.cls = .telem) →
      let p := s.rx.pos
      let taken := { s with
        rx := { s.rx with
          crc := if p < s.rx.consume - 4 then crcStep s.rx.crc b else s.rx.crc
          rcrc := if p < s.rx.consume - 4 then s.rx.rcrc else Memory.write s.rx.rcrc (p - (s.rx.consume - 4)) b
          resp := if s.rx.cls = .order ∧ p < 4 then Memory.write s.rx.resp p b else s.rx.resp
          text :=
            if s.rx.cls = .order ∧ 4 ≤ p ∧ p < 4 + s.rx.textLen ∧ p - 4 < 256 then Memory.write s.rx.text (p - 4) b
            else s.rx.text
          tmbody :=
            if s.rx.cls = .telem ∧ p < s.rx.bodyLen.toNat ∧ p < 112 then Memory.write s.rx.tmbody p b else s.rx.tmbody
          pos := p + 1 } }
      rxByte b s = if p + 1 = s.rx.consume then frameEnd taken else taken) ∧
    (s.rx.state = .discard → rxByte b s =
      if s.rx.pos + 1 = s.rx.consume then { s with rx := Rx.cleared }
      else { s with rx := { s.rx with pos := s.rx.pos + 1 } })

/-- 42_frame_scanner.md R227, R228, R229: header bytes are collected without being looked at; the 28th validates the header
against SYNC: a mismatch raises FRAMING and clears the frame; a match shows the header in RH, counts the frame, takes its ID, type and
length, starts the CRC over the 28 bytes and goes on as `classify` (ConsumptionTable), which leaves HDR. -/
def Obligations.HeaderCompletion : Prop :=
  ∀ (b : Byte) (s : State), s.rx.state = .hdr →
    let h := Memory.write s.rx.hbuf s.rx.hcnt b
    (s.rx.hcnt + 1 ≠ 28 → rxByte b s = { s with rx := { s.rx with hbuf := h, hcnt := s.rx.hcnt + 1 } }) ∧
    (s.rx.hcnt + 1 = 28 → Memory.word h 0 ≠ s.sync → rxByte b s =
      { s with
        rx := Rx.cleared
        sticky := s.sticky ||| 0x00000200#32
        cnt := { s.cnt with framing := s.cnt.framing + 1 } }) ∧
    (s.rx.hcnt + 1 = 28 → Memory.word h 0 = s.sync →
      rxByte b s =
        classify { s with
          rh := { f0 := Memory.word h 4, f1 := Memory.word h 8, f2 := Memory.word h 12, f3 := Memory.word h 16,
                  f4 := Memory.word h 20, f5 := Memory.word h 24 }
          cnt := { s.cnt with frames := s.cnt.frames + 1 }
          rx := { s.rx with
            hbuf := h
            hcnt := 28
            msgId := (Memory.word h 4).extractLsb' 0 16
            msgType := (Memory.word h 4).extractLsb' 16 8
            bodyLen := (Memory.word h 8).extractLsb' 0 16
            crc := crc (Memory.bytes h 0 28)
            deliver := true } } ∧
      (rxByte b s).rh = { f0 := Memory.word h 4, f1 := Memory.word h 8, f2 := Memory.word h 12, f3 := Memory.word h 16,
                          f4 := Memory.word h 20, f5 := Memory.word h 24 } ∧
      (rxByte b s).cnt.frames = s.cnt.frames + 1 ∧ (rxByte b s).rx.state ≠ .hdr)

/-- 42_frame_scanner.md R221, 20_memory.md R102, R104, 10_state.md R74: with RX_EN = 0 the receive engine takes no byte in HUNT, and
the bytes stay with the environment; where no byte is offered it takes none; otherwise it takes the first byte that has arrived,
inside a frame whatever RX_EN is. A byte that arrives stands behind those not yet taken, and a new time_in is shown; neither changes
the block. That a turn given to an idle engine passes is the model's reading (log entry 2). -/
def Obligations.ReceiveEnable : Prop :=
  ∀ s : State,
    runTurn .rxe s = .next (rxeStep s) ∧
    (s.rx.state = .hunt → s.ctrl.getLsbD 0 = false → rxeStep s = s) ∧
    (s.env.rxStream = [] → rxeStep s = s) ∧
    (∀ b bs, s.env.rxStream = b :: bs → (s.rx.state ≠ .hunt ∨ s.ctrl.getLsbD 0 = true) →
      rxeStep s = rxByte b { s with env := { s.env with rxStream := bs } }) ∧
    (∀ b : Byte, runTurn (.envRx b) s = .next { s with env := { s.env with rxStream := s.env.rxStream ++ [b] } }) ∧
    ∀ x : BitVec 64, runTurn (.envTime x) s = .next { s with env := { s.env with timeIn := x } }

/-- 42_frame_scanner.md R231 (a): junk without a SYNC0 byte, taken in HUNT, raises one DESYNC event per byte and leaves everything
else as it was, so what follows is decoded as without it. -/
def Obligations.JunkIsSkipped : Prop :=
  ∀ (j : List Byte) (s : State), s.rx.state = .hunt → (∀ b ∈ j, b ≠ sync0 s) →
    rxBytes j s =
      { s with
        sticky := if j = [] then s.sticky else s.sticky ||| 0x00000100#32
        cnt := { s.cnt with desync := s.cnt.desync + BitVec.ofNat 32 j.length } }

/-- 42_frame_scanner.md R231 (b): with RESYNC_FIX = 1 and three distinct sync bytes, after junk that holds no complete sync marker
the first byte of a frame leaves the engine in SYNC2 holding exactly that byte. -/
def Obligations.ResyncKeepsFrame : Prop :=
  ∀ (j : List Byte) (s : State), s.rx = Rx.cleared → s.ctrl.getLsbD 3 = true →
    sync0 s ≠ sync1 s → sync0 s ≠ sync2 s → sync1 s ≠ sync2 s → ¬[sync0 s, sync1 s, sync2 s] <:+: j →
    (rxBytes (j ++ [sync0 s]) s).rx = { Rx.cleared with state := .sync2, hcnt := 1, hbuf := Memory.write [] 0 (sync0 s) }

/-- 43_dispatcher.md R274: under ALIGN = 1 a frame whose header passes validation consumes exactly 32 + L bytes, whatever its class:
the engine is inside the frame after every shorter non-empty part of it and back in HUNT with a cleared frame after its last
byte, and exactly one frame is counted. -/
def Obligations.AlignmentLaw : Prop :=
  ∀ (bs : List Byte) (s : State), s.rx = Rx.cleared → alignOn s = true → bs.take 4 = bytesLE32 s.sync →
    bs.length = 32 + (le16 (bs.getD 8 0#8) (bs.getD 9 0#8)).toNat →
    (∀ k, 0 < k → k < bs.length → (rxBytes (bs.take k) s).rx.state ≠ .hunt) ∧
    (rxBytes bs s).rx = Rx.cleared ∧ (rxBytes bs s).cnt.frames = s.cnt.frames + 1

/-- 43_dispatcher.md R263, R270, R272, R273, 44_correlator.md R304: a well-formed order frame of at most 256 text bytes, whose ID and
type select the order shape, taken from HUNT with the slot empty, fills the slot with its ID, type, response, text and trailer,
in every setting of CTRL, and raises no event. -/
def Obligations.OrderFrameReachesSlot : Prop :=
  ∀ (f : HdrWords) (resp : Word) (text : List Byte) (s : State), s.rx = Rx.cleared → s.slotValid = false → text.length ≤ 256 →
    classOf s f.msgId f.msgType = .order →
    let body := bytesLE32 resp ++ text
    let t := rxBytes (wireFrame s.sync f body) s
    t.rx = Rx.cleared ∧ t.slotValid = true ∧ t.slotTag = 0#8 ++ f.msgType ++ f.msgId ∧
    t.slotLen = BitVec.ofNat 32 text.length ∧ t.slotResp = resp ∧
    t.slotCrc = crc (pack s.sync (withBodyLen f body.length) ++ body) ∧
    (∀ a, Memory.read t.slotText a = text.getD a 0#8) ∧
    t.rh = withBodyLen f body.length ∧ t.sticky = s.sticky ∧ t.cnt = { s.cnt with frames := s.cnt.frames + 1 } ∧
    t.pending = s.pending ∧ t.slotExpect = s.slotExpect

/-- 43_dispatcher.md R265, R270, R272, 45_telemetry.md R331: a telemetry frame with a body of 112 bytes, whose ID and type select the
telemetry shape, taken from HUNT with room in the FIFO, becomes the FIFO's last record with its body and trailer, in every setting
of CTRL, and raises no event. -/
def Obligations.TelemetryFrameBecomesRecord : Prop :=
  ∀ (f : HdrWords) (body : List Byte) (s : State), s.rx = Rx.cleared → s.tmFifo.length < 4 → body.length = 112 →
    classOf s f.msgId f.msgType = .telem →
    let t := rxBytes (wireFrame s.sync f body) s
    t.rx = Rx.cleared ∧ t.tmNextSeq = s.tmNextSeq + 1 ∧ t.sticky = s.sticky ∧
    t.cnt = { s.cnt with frames := s.cnt.frames + 1 } ∧
    ∃ e, t.tmFifo = s.tmFifo ++ [e] ∧ e.seq = s.tmNextSeq ∧ e.time = s.env.timeIn ∧ Memory.bytes e.body 0 112 = body ∧
      e.crc = crc (pack s.sync (withBodyLen f 112) ++ body)

/-- 70_reset_and_hazards.md R445, 10_state.md R65: inside a body or a skipped span the engine is back in HUNT after exactly SCAN_REM
further bytes, whatever they are; inside a header, after at most the header's remaining bytes and 65539 more; and with
RESYNC_FIX = 0 the matching attempt of SYNC2 or SYNC3 is over, in HUNT or in HDR, after at most 2 bytes, and the engine is in HUNT
after at most 25 + 65539 more (log entry 16 says why these are the bounds the base rules give for those states). -/
def Obligations.FrameEndsAfterScanRem : Prop :=
  ∀ (bs : List Byte) (s : State), Inv s →
    ((s.rx.state = .body ∨ s.rx.state = .discard) → bs.length ≤ s.rx.consume - s.rx.pos →
      ((rxBytes bs s).rx.state = .hunt ↔ bs.length = s.rx.consume - s.rx.pos)) ∧
    (s.rx.state = .hdr → 28 - s.rx.hcnt + 65539 ≤ bs.length →
      ∃ k, k ≤ 28 - s.rx.hcnt + 65539 ∧ (rxBytes (bs.take k) s).rx.state = .hunt) ∧
    ((s.rx.state = .sync2 ∨ s.rx.state = .sync3) → s.ctrl.getLsbD 3 = false →
      (2 ≤ bs.length →
        ∃ k, k ≤ 2 ∧ ((rxBytes (bs.take k) s).rx.state = .hunt ∨ (rxBytes (bs.take k) s).rx.state = .hdr)) ∧
      (2 + 25 + 65539 ≤ bs.length → ∃ k, k ≤ 2 + 25 + 65539 ∧ (rxBytes (bs.take k) s).rx.state = .hunt))

/-- 70_reset_and_hazards.md R445, its bound for SYNC2 and SYNC3 taken literally: with RX_EN = 0 the engine stops in HUNT after at most
2 further bytes. Expected to FAIL: the base rules R224–R227 carry a matching attempt on into HDR, and with RESYNC_FIX = 1 a run of
SYNC0 bytes keeps it in SYNC2 (log entry 16). -/
def Obligations.SyncStatesStopWithinTwoBytes : Prop :=
  ∀ (b0 b1 : Byte) (s : State), Inv s → s.ctrl.getLsbD 0 = false → (s.rx.state = .sync2 ∨ s.rx.state = .sync3) →
    s.rx.state = .hunt ∨ (rxByte b0 s).rx.state = .hunt ∨ (rxByte b1 (rxByte b0 s)).rx.state = .hunt

/-- 60_exceptions.md R422: what a receive step never writes. -/
def Obligations.ReceiveStepFrame : Prop :=
  ∀ (b : Byte) (s : State),
    let t := rxByte b s
    t.ctrl = s.ctrl ∧ t.irqEn = s.irqEn ∧ t.sync = s.sync ∧ t.crcAcc = s.crcAcc ∧ t.hbuf = s.hbuf ∧ t.hf = s.hf ∧
    t.txBody = s.txBody ∧ t.dt = s.dt ∧ t.pending = s.pending ∧ t.slotExpect = s.slotExpect ∧ t.tx = s.tx ∧
    t.result = s.result ∧ t.env = s.env

/-! ## Events, STATUS and the interrupt line -/

/-- 60_exceptions.md R406: one receive step raises at most one event: the sticky bits and the event counters are those of no event or
of one. -/
def Obligations.AtMostOneEventPerByte : Prop :=
  ∀ (b : Byte) (s : State), ∃ e : Option Event,
    (rxByte b s).sticky = (match e with | none => s | some x => event x s).sticky ∧
    (rxByte b s).cnt = { (match e with | none => s | some x => event x s).cnt with frames := (rxByte b s).cnt.frames } ∧
    e ≠ some .opErr

/-- 60_exceptions.md R411: irq is the OR over the listed bits of STATUS AND IRQ_EN. -/
def Obligations.InterruptLine : Prop :=
  ∀ s : State, irq s = true ↔
    ∃ k ∈ [0, 2, 8, 9, 10, 11, 12, 13, 14, 15, 16],
      (readReg .status s).getLsbD k = true ∧ (readReg .irqEn s).getLsbD k = true

/-- 10_state.md R42, R43: every bit of STATUS. -/
def Obligations.StatusBits : Prop :=
  ∀ (s : State) (k : Nat), (readReg .status s).getLsbD k =
    if k = 0 then s.slotValid
    else if k = 1 then s.pending
    else if k = 2 then decide (0 < s.tmFifo.length)
    else if k = 3 then decide (s.tx.pos < s.tx.len)
    else if k = 4 then decide (s.rx.state ≠ .hunt)
    else if 8 ≤ k ∧ k ≤ 16 then s.sticky.getLsbD k
    else false

/-! ## Register window -/

/-- 20_memory.md R106: an access of another width or at an offset that is not a multiple of 4 is refused, with no step; every other
access of the host goes on; and a host turn is exactly such a read or write (20_memory.md R101, 60_exceptions.md R403). Which refusal is named, and that the width is looked at
first, is the model's reading (log entry 6). -/
def Obligations.AccessesRefused : Prop :=
  ∀ (off : Offset) (width : Nat) (v : Word) (s : State),
    runTurn (.hostRead off width) s = hostRead off width s ∧
    runTurn (.hostWrite off width v) s = hostWrite off width v s ∧
    (width ≠ 4 → hostRead off width s = .refused (.notWholeWord width) ∧
      hostWrite off width v s = .refused (.notWholeWord width)) ∧
    (off.toNat % 4 ≠ 0 → hostRead off 4 s = .refused (.misaligned off) ∧
      hostWrite off 4 v s = .refused (.misaligned off)) ∧
    (off.toNat % 4 = 0 → (∃ t, hostRead off 4 s = .next t) ∧ ∃ t, hostWrite off 4 v s = .next t)

/-- 10_state.md R33, R68, 20_memory.md R110, 47_control.md R373: a read of any aligned offset returns the value of the register that
the map puts there and leaves the whole state of the block unchanged. The first part is that step, the second the map, the third
what each register but STATUS (StatusBits) shows of the state (10_state.md R40–R67). The premises on TM_COUNT, SCAN, SCAN_REM and
TX_STAT are the ranges the rules give those fields. -/
def Obligations.ReadsHaveNoSideEffect : Prop :=
  (∀ (off : Offset) (s : State), off.toNat % 4 = 0 →
    hostRead off 4 s =
      .next { s with env := { s.env with hostGot := s.env.hostGot ++ [readReg (regAt off) s] } }) ∧
  (regAt 0x000#12 = .id ∧ regAt 0x004#12 = .ctrl ∧ regAt 0x008#12 = .status ∧ regAt 0x00C#12 = .irqEn ∧
    regAt 0x010#12 = .sync ∧ regAt 0x014#12 = .cmd ∧ regAt 0x018#12 = .result ∧ regAt 0x01C#12 = .crcAcc ∧
    (∀ k : Fin 7, regAt (BitVec.ofNat 12 (0x020 + 4 * k.val)) = .hbuf k) ∧
    (∀ k : Fin 6, regAt (BitVec.ofNat 12 (0x040 + 4 * k.val)) = .hf k) ∧
    (∀ k : Fin 6, regAt (BitVec.ofNat 12 (0x058 + 4 * k.val)) = .rh k) ∧
    regAt 0x070#12 = .slotExpect ∧ regAt 0x074#12 = .slotTag ∧ regAt 0x078#12 = .slotLen ∧
    regAt 0x07C#12 = .slotResp ∧ regAt 0x080#12 = .slotCrc ∧ regAt 0x084#12 = .tmSeq ∧
    regAt 0x088#12 = .tmTimeLo ∧ regAt 0x08C#12 = .tmTimeHi ∧ regAt 0x090#12 = .tmCrc ∧
    regAt 0x094#12 = .tmCount ∧ regAt 0x098#12 = .tmNextSeq ∧
    (∀ k : Fin 8, regAt (BitVec.ofNat 12 (0x0A0 + 4 * k.val)) = .dt k) ∧
    (∀ k : Fin 8, regAt (BitVec.ofNat 12 (0x0C0 + 4 * k.val)) = .cnt k) ∧
    regAt 0x0E0#12 = .scan ∧ regAt 0x0E4#12 = .scanRem ∧ regAt 0x0E8#12 = .txStat ∧
    (∀ j : Fin 64, regAt (BitVec.ofNat 12 (0x100 + 4 * j.val)) = .slotText j) ∧
    (∀ j : Fin 28, regAt (BitVec.ofNat 12 (0x200 + 4 * j.val)) = .tmBody j) ∧
    (∀ j : Fin 64, regAt (BitVec.ofNat 12 (0x400 + 4 * j.val)) = .txBody j) ∧
    ∀ off : Offset, off.toNat % 4 = 0 →
      (off = 0x03C#12 ∨ off = 0x09C#12 ∨ 0x0EC ≤ off.toNat ∧ off.toNat ≤ 0x0FC ∨ 0x270 ≤ off.toNat ∧ off.toNat ≤ 0x3FC ∨
        0x500 ≤ off.toNat) →
      regAt off = .reserved) ∧
  ∀ s : State,
    let word := fun (m : Memory) (a : Nat) =>
      le32 (Memory.read m a) (Memory.read m (a + 1)) (Memory.read m (a + 2)) (Memory.read m (a + 3))
    (readReg .id s = 0x4F454D34#32 ∧ readReg .cmd s = 0#32 ∧ readReg .reserved s = 0#32 ∧
      readReg .ctrl s = s.ctrl &&& 0x0000000F#32 ∧ readReg .irqEn s = s.irqEn &&& 0x0001FF05#32 ∧
      readReg .sync s = s.sync ∧ readReg .result s = s.result ∧ readReg .crcAcc s = s.crcAcc) ∧
    (∀ k : Fin 7, readReg (.hbuf k) s = word s.hbuf (4 * k.val)) ∧
    (∀ k : Fin 6, readReg (.hf k) s =
      ([s.hf.f0, s.hf.f1, s.hf.f2, s.hf.f3, s.hf.f4, s.hf.f5] : List Word).getD k.val 0#32) ∧
    (∀ k : Fin 6, readReg (.rh k) s =
      ([s.rh.f0, s.rh.f1, s.rh.f2, s.rh.f3, s.rh.f4, s.rh.f5] : List Word).getD k.val 0#32) ∧
    (readReg .slotExpect s = 0#16 ++ s.slotExpect.extractLsb' 0 16 ∧
      readReg .slotTag s = 0#8 ++ s.slotTag.extractLsb' 16 8 ++ s.slotTag.extractLsb' 0 16 ∧
      readReg .slotLen s = 0#16 ++ s.slotLen.extractLsb' 0 16 ∧
      readReg .slotResp s = s.slotResp ∧ readReg .slotCrc s = s.slotCrc ∧
      ∀ j : Fin 64, readReg (.slotText j) s = word s.slotText (4 * j.val)) ∧
    (s.tmFifo = [] →
      readReg .tmSeq s = 0#32 ∧ readReg .tmTimeLo s = 0#32 ∧ readReg .tmTimeHi s = 0#32 ∧ readReg .tmCrc s = 0#32 ∧
      ∀ j : Fin 28, readReg (.tmBody j) s = 0#32) ∧
    (∀ e rest, s.tmFifo = e :: rest →
      readReg .tmSeq s = e.seq ∧ readReg .tmTimeHi s ++ readReg .tmTimeLo s = e.time ∧ readReg .tmCrc s = e.crc ∧
      ∀ j : Fin 28, readReg (.tmBody j) s = word e.body (4 * j.val)) ∧
    (s.tmFifo.length ≤ 4 → (readReg .tmCount s).toNat = s.tmFifo.length) ∧
    readReg .tmNextSeq s = s.tmNextSeq ∧
    (∀ k : Fin 8, readReg (.dt k) s = s.dt[k.val] &&& 0x8003FFFF#32) ∧
    (∀ k : Fin 8, readReg (.cnt k) s =
      ([s.cnt.frames, s.cnt.desync, s.cnt.framing, s.cnt.unrec, s.cnt.crcerr, s.cnt.lenerr, s.cnt.tmdrop,
        s.cnt.orddrop] : List Word).getD k.val 0#32) ∧
    (s.rx.hcnt ≤ 28 →
      (readReg .scan s).extractLsb' 0 3 =
        (match s.rx.state with
          | .hunt => 0#3 | .sync2 => 1#3 | .sync3 => 2#3 | .hdr => 3#3 | .body => 4#3 | .discard => 5#3) ∧
      (readReg .scan s).extractLsb' 3 5 = 0#5 ∧ ((readReg .scan s).extractLsb' 8 5).toNat = s.rx.hcnt ∧
      (readReg .scan s).extractLsb' 13 3 =
        (match s.rx.cls with | .noClass => 0#3 | .order => 1#3 | .telem => 2#3 | .info => 3#3 | .skip => 4#3) ∧
      (readReg .scan s).extractLsb' 16 16 = 0#16) ∧
    (s.rx.pos ≤ s.rx.consume → s.rx.consume ≤ 65539 →
      (readReg .scanRem s).toNat =
        if s.rx.state = .body ∨ s.rx.state = .discard then s.rx.consume - s.rx.pos else 0) ∧
    (s.tx.len ≤ 288 → s.tx.pos ≤ s.tx.len →
      ((readReg .txStat s).extractLsb' 0 16).toNat = s.tx.len ∧
      ((readReg .txStat s).extractLsb' 16 16).toNat = s.tx.pos) ∧
    ∀ j : Fin 64, readReg (.txBody j) s = word s.txBody (4 * j.val)

/-- 47_control.md R374, R373: after a host write a read-write register reads the written value on its writable bits, STATUS reads
without the sticky bits written as 1, a read-only register and a reserved offset read as before, and no write reaches another
register. -/
def Obligations.WriteReachesItsRegisterOnly : Prop :=
  ∀ (off : Offset) (v : Word) (s : State), Inv s → off.toNat % 4 = 0 → off ≠ 0x014#12 →
    ∃ t, hostWrite off 4 v s = .next t ∧ t.rx = s.rx ∧ t.tx = s.tx ∧ t.env = s.env ∧
      (∀ q, q ≠ regAt off → readReg q t = readReg q s) ∧
      readReg (regAt off) t =
        match regAt off with
        | .ctrl => v &&& 0x0000000F#32
        | .status => readReg .status s &&& ~~~(v &&& 0x0001FF00#32)
        | .irqEn => v &&& 0x0001FF05#32
        | .sync => v
        | .crcAcc => v
        | .hbuf _ => v
        | .hf _ => v
        | .dt _ => v &&& 0x8003FFFF#32
        | .txBody _ => v
        | r => readReg r s

/-! ## Reset -/

/-- 10_state.md R80, R33: what a host read returns at every aligned offset after reset, what every register reads, the interrupt
line, and the state no register shows. -/
def Obligations.ResetValues : Prop :=
  (∀ off : Offset, off.toNat % 4 = 0 →
    hostRead off 4 State.reset = .next { State.reset with
      env := { State.reset.env with
        hostGot :=
          [if off = 0x000#12 then 0x4F454D34#32
           else if off = 0x010#12 then 0x1C1244AA#32
           else if off = 0x098#12 then 0x00000001#32
           else if off = 0x0A0#12 then 0x80000001#32
           else if off = 0x0A4#12 then 0x80000004#32
           else if off = 0x0A8#12 then 0x80000012#32
           else if off = 0x0AC#12 then 0x80000013#32
           else if off = 0x0B0#12 then 0x80000102#32
           else if off = 0x0B4#12 then 0x8000028C#32
           else if off = 0x0B8#12 then 0x80020026#32
           else if off = 0x0BC#12 then 0x800100F1#32
           else 0x00000000#32] } }) ∧
  (∀ r : Reg, readReg r State.reset =
    match r with
    | .id => 0x4F454D34#32
    | .sync => 0x1C1244AA#32
    | .tmNextSeq => 0x00000001#32
    | .dt k => ([0x80000001#32, 0x80000004#32, 0x80000012#32, 0x80000013#32, 0x80000102#32, 0x8000028C#32, 0x80020026#32,
        0x800100F1#32] : List Word).getD k.val 0#32
    | _ => 0#32) ∧
  irq State.reset = false ∧ State.reset.slotValid = false ∧ State.reset.pending = false ∧ State.reset.tmFifo = [] ∧
  State.reset.rx =
    { state := .hunt, hbuf := [], hcnt := 0, msgId := 0, msgType := 0, bodyLen := 0, cls := .noClass, consume := 0,
      pos := 0, textLen := 0, crc := 0, resp := [], text := [], tmbody := [], rcrc := [], deliver := true } ∧
  State.reset.tx.len = 0 ∧ State.reset.tx.pos = 0 ∧ ∀ a, Memory.read State.reset.tx.buf a = 0#8

/-- 70_reset_and_hazards.md R440, R441: a reset, between any two steps, sets every piece of the block's state to its reset value;
bytes already emitted stay on the wire and bytes not yet taken stay in the stream. That the rest of the environment stays too, the
turns already chosen, the count of draws, time_in and the words the host has read, is the model's reading (log entry 9). -/
def Obligations.ResetSetsEverything : Prop :=
  ∀ s : State, runTurn .reset s = .next { State.reset with env := s.env }

/-! ## The invariant -/

/-- 10_state.md R31, R57, R62, R64–R66, R70, R73: from every state in which reserved bits are 0, buffers are canonical and inside
their sizes, TX_STAT and the FIFO are in range and the scanner's position is one of those the rules name, every step of every
agent leads to such a state. -/
def Obligations.InvariantKeptByEveryStep : Prop :=
  ∀ s s' : State, Inv s → step s = .next s' → Inv s'

/-- 10_state.md R80: the state after reset is one of them, and its FIFO's sequence numbers are consecutive. -/
def Obligations.InvariantAtReset : Prop :=
  Inv State.reset ∧ SeqConsecutive State.reset
end

