-- ==== Sys2Proof/Laws/Memory.lean ====
section
/-! SUPPORT. What the buffer operations do: each keeps the canonical form, a read after a write gives the byte written, and a
write leaves every other index alone. -/

namespace Sys2Proof.Machine

theorem Memory.wfFrom_mono {lo lo' : Nat} {m : Memory} (h : Memory.wfFrom lo m = true) (hl : lo' ≤ lo) :
    Memory.wfFrom lo' m = true := by
  cases m with
  | nil => rfl
  | cons c m =>
    obtain ⟨k, v⟩ := c
    simp only [Memory.wfFrom, Bool.and_eq_true, decide_eq_true_eq] at h ⊢
    exact ⟨⟨by omega, h.1.2⟩, h.2⟩

theorem Memory.wfFrom_cons {lo k : Nat} {v : Byte} {m : Memory} :
    Memory.wfFrom lo ((k, v) :: m) = true ↔ lo ≤ k ∧ v ≠ 0#8 ∧ Memory.wfFrom (k + 1) m = true := by
  simp [Memory.wfFrom, and_assoc]

/-- Below the first listed index every byte is 0. -/
theorem Memory.read_below {lo : Nat} {m : Memory} (h : Memory.wfFrom lo m = true) {x : Nat} (hx : x < lo) :
    Memory.read m x = 0#8 := by
  induction m generalizing lo with
  | nil => rfl
  | cons c m ih =>
    obtain ⟨k, v⟩ := c
    rw [Memory.wfFrom_cons] at h
    have hk : x ≠ k := by omega
    simp only [Memory.read, if_neg hk]
    exact ih h.2.2 (by omega)

theorem Memory.cons_wfFrom {lo a : Nat} {b : Byte} {m : Memory} (ha : lo ≤ a) (h : Memory.wfFrom (a + 1) m = true) :
    Memory.wfFrom lo (Memory.cons a b m) = true := by
  unfold Memory.cons
  split
  · exact Memory.wfFrom_mono h (by omega)
  · rename_i hb
    exact Memory.wfFrom_cons.2 ⟨ha, hb, h⟩

theorem Memory.read_cons {a : Nat} {b : Byte} {m : Memory} (h : Memory.wfFrom (a + 1) m = true) (x : Nat) :
    Memory.read (Memory.cons a b m) x = if x = a then b else Memory.read m x := by
  unfold Memory.cons
  split
  · rename_i hb
    split
    · rename_i hx
      rw [hx, hb, Memory.read_below h (by omega)]
    · rfl
  · rfl

theorem Memory.write_wfFrom {lo : Nat} {m : Memory} {a : Nat} {b : Byte} (h : Memory.wfFrom lo m = true) (ha : lo ≤ a) :
    Memory.wfFrom lo (Memory.write m a b) = true := by
  induction m generalizing lo with
  | nil => exact Memory.cons_wfFrom ha rfl
  | cons c m ih =>
    obtain ⟨k, v⟩ := c
    rw [Memory.wfFrom_cons] at h
    simp only [Memory.write]
    split
    · rename_i hak
      exact Memory.cons_wfFrom ha (Memory.wfFrom_cons.2 ⟨by omega, h.2.1, h.2.2⟩)
    · split
      · rename_i hak
        subst hak
        exact Memory.cons_wfFrom ha h.2.2
      · exact Memory.wfFrom_cons.2 ⟨h.1, h.2.1, ih h.2.2 (by omega)⟩

/-- A write keeps the canonical form. -/
theorem Memory.write_wf {m : Memory} {a : Nat} {b : Byte} (h : Memory.wf m = true) : Memory.wf (Memory.write m a b) = true :=
  Memory.write_wfFrom h (Nat.zero_le a)

theorem Memory.read_write_from {lo : Nat} {m : Memory} (h : Memory.wfFrom lo m = true) (a : Nat) (b : Byte) (x : Nat) :
    Memory.read (Memory.write m a b) x = if x = a then b else Memory.read m x := by
  induction m generalizing lo with
  | nil => exact Memory.read_cons rfl x
  | cons c m ih =>
    obtain ⟨k, v⟩ := c
    rw [Memory.wfFrom_cons] at h
    simp only [Memory.write]
    split
    · rename_i hak
      exact Memory.read_cons (Memory.wfFrom_cons.2 ⟨by omega, h.2.1, h.2.2⟩) x
    · split
      · rename_i hak
        subst hak
        rw [Memory.read_cons h.2.2 x]
        by_cases hx : x = a <;> simp [Memory.read, hx]
      · rename_i h1 h2
        simp only [Memory.read, ih h.2.2]
        by_cases hx : x = k
        · simp [hx, show k ≠ a by omega]
        · simp [hx]

/-- A read after a write: the byte written at its index, every other byte as before. -/
theorem Memory.read_write {m : Memory} (h : Memory.wf m = true) (a : Nat) (b : Byte) (x : Nat) :
    Memory.read (Memory.write m a b) x = if x = a then b else Memory.read m x :=
  Memory.read_write_from h a b x

theorem Memory.within_cons {n a : Nat} {b : Byte} {m : Memory} (ha : a < n) (h : Memory.within n m = true) :
    Memory.within n (Memory.cons a b m) = true := by
  unfold Memory.cons
  split
  · exact h
  · simpa [Memory.within, ha] using h

theorem Memory.within_write {n : Nat} {m : Memory} {a : Nat} {b : Byte} (h : Memory.within n m = true) (ha : a < n) :
    Memory.within n (Memory.write m a b) = true := by
  induction m with
  | nil => exact Memory.within_cons ha rfl
  | cons c m ih =>
    obtain ⟨k, v⟩ := c
    have hm : Memory.within n m = true := by
      simp only [Memory.within, List.all_cons, Bool.and_eq_true] at h
      exact h.2
    simp only [Memory.write]
    split
    · exact Memory.within_cons ha h
    · split
      · exact Memory.within_cons ha hm
      · simp only [Memory.within, List.all_cons, Bool.and_eq_true] at h ⊢
        exact ⟨h.1, ih hm⟩

theorem Memory.within_mono {n n' : Nat} {m : Memory} (h : Memory.within n m = true) (hn : n ≤ n') :
    Memory.within n' m = true := by
  simp only [Memory.within, List.all_eq_true, decide_eq_true_eq] at h ⊢
  exact fun c hc => lt_of_lt_of_le (h c hc) hn

theorem Memory.ok_iff {n : Nat} {m : Memory} :
    Memory.ok n m = true ↔ Memory.wf m = true ∧ Memory.within n m = true := by
  simp [Memory.ok]

/-- A write inside a buffer keeps it a buffer of its size in canonical form. -/
theorem Memory.ok_write {n : Nat} {m : Memory} {a : Nat} {b : Byte} (h : Memory.ok n m = true) (ha : a < n) :
    Memory.ok n (Memory.write m a b) = true := by
  rw [Memory.ok_iff] at h ⊢
  exact ⟨Memory.write_wf h.1, Memory.within_write h.2 ha⟩

@[simp] theorem Memory.ok_nil (n : Nat) : Memory.ok n [] = true := rfl

@[simp] theorem Memory.read_nil (a : Nat) : Memory.read [] a = 0#8 := rfl

/-- Writing a span keeps the canonical form. -/
theorem Memory.writeBytes_wf {m : Memory} {a : Nat} {bs : List Byte} (h : Memory.wf m = true) :
    Memory.wf (Memory.writeBytes m a bs) = true := by
  induction bs generalizing m a with
  | nil => exact h
  | cons b bs ih => exact ih (Memory.write_wf h)

/-- Writing a span inside a buffer keeps it a buffer of its size in canonical form. -/
theorem Memory.ok_writeBytes {n : Nat} {m : Memory} {a : Nat} {bs : List Byte} (h : Memory.ok n m = true)
    (ha : a + bs.length ≤ n) : Memory.ok n (Memory.writeBytes m a bs) = true := by
  induction bs generalizing m a with
  | nil => exact h
  | cons b bs ih =>
    simp only [List.length_cons] at ha
    exact ih (Memory.ok_write h (by omega)) (by omega)

/-- A read after a span is written: the span's byte inside it, the byte as before outside it. -/
theorem Memory.read_writeBytes {m : Memory} (h : Memory.wf m = true) (a : Nat) (bs : List Byte) (x : Nat) :
    Memory.read (Memory.writeBytes m a bs) x =
      if a ≤ x ∧ x < a + bs.length then bs.getD (x - a) 0#8 else Memory.read m x := by
  induction bs generalizing m a with
  | nil =>
    have : ¬(a ≤ x ∧ x < a + ([] : List Byte).length) := by simp
    rw [if_neg this, Memory.writeBytes]
  | cons b bs ih =>
    simp only [Memory.writeBytes, List.length_cons]
    rw [ih (Memory.write_wf h) (a + 1), Memory.read_write h]
    by_cases h1 : x = a
    · subst h1
      simp
    · by_cases h2 : a ≤ x ∧ x < a + (bs.length + 1)
      · have h3 : a + 1 ≤ x ∧ x < a + 1 + bs.length := by omega
        have h4 : x - a = (x - (a + 1)) + 1 := by omega
        simp [h2, h3, h4]
      · have h3 : ¬(a + 1 ≤ x ∧ x < a + 1 + bs.length) := by omega
        rw [if_neg h3, if_neg h1, if_neg h2]

@[simp] theorem Memory.bytes_length (m : Memory) (a n : Nat) : (Memory.bytes m a n).length = n := by
  induction n generalizing a with
  | zero => rfl
  | succ n ih => simp [Memory.bytes, ih]

theorem Memory.bytes_getD (m : Memory) (a n i : Nat) (hi : i < n) :
    (Memory.bytes m a n).getD i 0#8 = Memory.read m (a + i) := by
  induction n generalizing a i with
  | zero => omega
  | succ n ih =>
    cases i with
    | zero => simp [Memory.bytes]
    | succ i =>
      simp only [Memory.bytes, List.getD_cons_succ]
      rw [ih (a + 1) i (by omega)]
      congr 1
      omega

/-- Buffers that read the same over a span give the same bytes. -/
theorem Memory.bytes_congr {m m' : Memory} {a n : Nat} (h : ∀ x, a ≤ x → x < a + n → Memory.read m x = Memory.read m' x) :
    Memory.bytes m a n = Memory.bytes m' a n := by
  induction n generalizing a with
  | zero => rfl
  | succ n ih =>
    simp only [Memory.bytes]
    rw [h a (le_refl a) (by omega), ih (fun x h1 h2 => h x (by omega) (by omega))]

/-- Reading back a span that was written. -/
theorem Memory.bytes_writeBytes {m : Memory} (h : Memory.wf m = true) (a : Nat) (bs : List Byte) :
    Memory.bytes (Memory.writeBytes m a bs) a bs.length = bs := by
  apply List.ext_getElem (by simp)
  intro i h1 h2
  have h3 := Memory.bytes_getD (Memory.writeBytes m a bs) a bs.length i h2
  rw [Memory.read_writeBytes h, if_pos (by omega)] at h3
  simp only [List.getD_eq_getElem?_getD, List.getElem?_eq_getElem h1, Option.getD_some,
    Nat.add_sub_cancel_left, List.getElem?_eq_getElem h2] at h3
  exact h3

theorem Memory.ext_from {lo : Nat} {m m' : Memory} (h : Memory.wfFrom lo m = true) (h' : Memory.wfFrom lo m' = true)
    (hr : ∀ x, Memory.read m x = Memory.read m' x) : m = m' := by
  induction m generalizing lo m' with
  | nil =>
    cases m' with
    | nil => rfl
    | cons c' m' =>
      obtain ⟨k', v'⟩ := c'
      rw [Memory.wfFrom_cons] at h'
      exact absurd (by simpa [Memory.read] using (hr k').symm) h'.2.1
  | cons c m ih =>
    obtain ⟨k, v⟩ := c
    rw [Memory.wfFrom_cons] at h
    cases m' with
    | nil => exact absurd (by simpa [Memory.read] using hr k) h.2.1
    | cons c' m' =>
      obtain ⟨k', v'⟩ := c'
      rw [Memory.wfFrom_cons] at h'
      have hk : k = k' := by
        rcases lt_trichotomy k k' with hlt | heq | hgt
        · have h1 := hr k
          simp only [Memory.read, if_true, if_neg (show k ≠ k' by omega)] at h1
          rw [Memory.read_below h'.2.2 (by omega)] at h1
          exact absurd h1 h.2.1
        · exact heq
        · have h1 := hr k'
          simp only [Memory.read, if_true, if_neg (show k' ≠ k by omega)] at h1
          rw [Memory.read_below h.2.2 (by omega)] at h1
          exact absurd h1.symm h'.2.1
      subst hk
      have hv : v = v' := by simpa [Memory.read] using hr k
      subst hv
      have ht : m = m' := by
        apply ih h.2.2 h'.2.2
        intro x
        by_cases hx : x = k
        · subst hx
          rw [Memory.read_below h.2.2 (by omega), Memory.read_below h'.2.2 (by omega)]
        · simpa [Memory.read, hx] using hr x
      rw [ht]

/-- Equal buffers are equal data. -/
theorem Memory.ext {m m' : Memory} (h : Memory.wf m = true) (h' : Memory.wf m' = true)
    (hr : ∀ x, Memory.read m x = Memory.read m' x) : m = m' :=
  Memory.ext_from h h' hr

theorem Memory.truncate_wfFrom {lo n : Nat} {m : Memory} (h : Memory.wfFrom lo m = true) :
    Memory.wfFrom lo (Memory.truncate m n) = true := by
  induction m generalizing lo with
  | nil => rfl
  | cons c m ih =>
    obtain ⟨k, v⟩ := c
    rw [Memory.wfFrom_cons] at h
    have h1 := ih h.2.2
    simp only [Memory.truncate, List.filter_cons] at h1 ⊢
    split
    · exact Memory.wfFrom_cons.2 ⟨h.1, h.2.1, h1⟩
    · exact Memory.wfFrom_mono h1 (by omega)

theorem Memory.within_truncate (m : Memory) (n : Nat) : Memory.within n (Memory.truncate m n) = true := by
  simp [Memory.within, Memory.truncate]

/-- Cutting a buffer short keeps the canonical form and fits the shorter size. -/
theorem Memory.ok_truncate {m : Memory} (n : Nat) (h : Memory.wf m = true) :
    Memory.ok n (Memory.truncate m n) = true :=
  Memory.ok_iff.2 ⟨Memory.truncate_wfFrom h, Memory.within_truncate m n⟩

/-- A buffer cut short reads as before below the cut and 0 from it on. -/
theorem Memory.read_truncate {m : Memory} (h : Memory.wf m = true) (n x : Nat) :
    Memory.read (Memory.truncate m n) x = if x < n then Memory.read m x else 0#8 := by
  have key : ∀ (lo : Nat) (m : Memory), Memory.wfFrom lo m = true →
      Memory.read (Memory.truncate m n) x = if x < n then Memory.read m x else 0#8 := by
    intro lo m
    induction m generalizing lo with
    | nil => simp [Memory.truncate]
    | cons c m ih =>
      obtain ⟨k, v⟩ := c
      intro h
      rw [Memory.wfFrom_cons] at h
      have h1 := ih _ h.2.2
      simp only [Memory.truncate, List.filter_cons] at h1 ⊢
      by_cases hk : k < n
      · simp only [hk, decide_true, if_true, Memory.read, h1]
        by_cases hx : x = k
        · simp [hx, hk]
        · simp [hx]
      · simp only [hk, decide_false, Bool.false_eq_true, if_false, h1, Memory.read]
        by_cases hx : x = k
        · simp [hx, hk]
        · simp [hx]
  exact key 0 m h

/-! ## Byte order -/

theorem le32_bytesLE32 (v : Word) :
    le32 (v.extractLsb' 0 8) (v.extractLsb' 8 8) (v.extractLsb' 16 8) (v.extractLsb' 24 8) = v := by
  unfold le32
  apply BitVec.eq_of_getLsbD_eq
  intro i hi
  simp only [BitVec.getLsbD_append, BitVec.getLsbD_extractLsb']
  have : i < 32 := hi
  by_cases h1 : i < 8
  · simp [h1]
  · by_cases h2 : i - 8 < 8
    · simp [h1, h2, show 8 + (i - 8) = i by omega]
    · by_cases h3 : i - 8 - 8 < 8
      · simp [h1, h2, h3, show 16 + (i - 8 - 8) = i by omega]
      · simp [h1, h2, h3, show 24 + (i - 8 - 8 - 8) = i by omega, show i - 8 - 8 - 8 < 8 by omega]

@[simp] theorem bytesLE32_length (v : Word) : (bytesLE32 v).length = 4 := rfl

/-- A word read from a buffer where it was written is that word. -/
theorem Memory.word_writeWord {m : Memory} (h : Memory.wf m = true) (a : Nat) (v : Word) :
    Memory.word (Memory.writeWord m a v) a = v := by
  have hr : ∀ x, Memory.read (Memory.writeWord m a v) x =
      if a ≤ x ∧ x < a + 4 then (bytesLE32 v).getD (x - a) 0#8 else Memory.read m x := by
    intro x
    exact Memory.read_writeBytes h a (bytesLE32 v) x
  simp only [Memory.word, hr, show a ≤ a ∧ a < a + 4 by omega, show a ≤ a + 1 ∧ a + 1 < a + 4 by omega,
    show a ≤ a + 2 ∧ a + 2 < a + 4 by omega, show a ≤ a + 3 ∧ a + 3 < a + 4 by omega, and_self, if_true,
    Nat.sub_self, Nat.add_sub_cancel_left]
  exact le32_bytesLE32 v

/-- A word read from a buffer outside a word that was written is as before. -/
theorem Memory.word_writeWord_ne {m : Memory} (h : Memory.wf m = true) (a c : Nat) (v : Word)
    (hd : c + 4 ≤ a ∨ a + 4 ≤ c) : Memory.word (Memory.writeWord m a v) c = Memory.word m c := by
  have hr : ∀ x, ¬(a ≤ x ∧ x < a + 4) → Memory.read (Memory.writeWord m a v) x = Memory.read m x := by
    intro x hx
    have := Memory.read_writeBytes h a (bytesLE32 v) x
    rwa [if_neg (by simpa using hx)] at this
  simp only [Memory.word, hr c (by omega), hr (c + 1) (by omega), hr (c + 2) (by omega), hr (c + 3) (by omega)]

/-- A word write inside a buffer keeps it a buffer of its size in canonical form. -/
theorem Memory.ok_writeWord {n : Nat} {m : Memory} {a : Nat} {v : Word} (h : Memory.ok n m = true) (ha : a + 4 ≤ n) :
    Memory.ok n (Memory.writeWord m a v) = true :=
  Memory.ok_writeBytes h (by simpa using ha)

end Sys2Proof.Machine
end

