-- ==== Sys2Proof/Laws/State.lean ====
section
/-! SUPPORT. One lemma per field per shared update of the state, so that no later proof unfolds a record update. -/

namespace Sys2Proof.Machine

/-! ## event -/

@[simp] theorem event_ctrl (e : Event) (s : State) : (event e s).ctrl = s.ctrl := rfl
@[simp] theorem event_sticky (e : Event) (s : State) : (event e s).sticky = s.sticky ||| e.mask := rfl
@[simp] theorem event_irqEn (e : Event) (s : State) : (event e s).irqEn = s.irqEn := rfl
@[simp] theorem event_sync (e : Event) (s : State) : (event e s).sync = s.sync := rfl
@[simp] theorem event_result (e : Event) (s : State) : (event e s).result = s.result := rfl
@[simp] theorem event_crcAcc (e : Event) (s : State) : (event e s).crcAcc = s.crcAcc := rfl
@[simp] theorem event_hbuf (e : Event) (s : State) : (event e s).hbuf = s.hbuf := rfl
@[simp] theorem event_hf (e : Event) (s : State) : (event e s).hf = s.hf := rfl
@[simp] theorem event_rh (e : Event) (s : State) : (event e s).rh = s.rh := rfl
@[simp] theorem event_slotExpect (e : Event) (s : State) : (event e s).slotExpect = s.slotExpect := rfl
@[simp] theorem event_slotTag (e : Event) (s : State) : (event e s).slotTag = s.slotTag := rfl
@[simp] theorem event_slotLen (e : Event) (s : State) : (event e s).slotLen = s.slotLen := rfl
@[simp] theorem event_slotResp (e : Event) (s : State) : (event e s).slotResp = s.slotResp := rfl
@[simp] theorem event_slotCrc (e : Event) (s : State) : (event e s).slotCrc = s.slotCrc := rfl
@[simp] theorem event_slotText (e : Event) (s : State) : (event e s).slotText = s.slotText := rfl
@[simp] theorem event_slotValid (e : Event) (s : State) : (event e s).slotValid = s.slotValid := rfl
@[simp] theorem event_pending (e : Event) (s : State) : (event e s).pending = s.pending := rfl
@[simp] theorem event_tmFifo (e : Event) (s : State) : (event e s).tmFifo = s.tmFifo := rfl
@[simp] theorem event_tmNextSeq (e : Event) (s : State) : (event e s).tmNextSeq = s.tmNextSeq := rfl
@[simp] theorem event_dt (e : Event) (s : State) : (event e s).dt = s.dt := rfl
@[simp] theorem event_cnt (e : Event) (s : State) : (event e s).cnt = e.count s.cnt := rfl
@[simp] theorem event_txBody (e : Event) (s : State) : (event e s).txBody = s.txBody := rfl
@[simp] theorem event_rx (e : Event) (s : State) : (event e s).rx = s.rx := rfl
@[simp] theorem event_tx (e : Event) (s : State) : (event e s).tx = s.tx := rfl
@[simp] theorem event_env (e : Event) (s : State) : (event e s).env = s.env := rfl

/-! ## clearFrame -/

@[simp] theorem clearFrame_ctrl (s : State) : (clearFrame s).ctrl = s.ctrl := rfl
@[simp] theorem clearFrame_sticky (s : State) : (clearFrame s).sticky = s.sticky := rfl
@[simp] theorem clearFrame_irqEn (s : State) : (clearFrame s).irqEn = s.irqEn := rfl
@[simp] theorem clearFrame_sync (s : State) : (clearFrame s).sync = s.sync := rfl
@[simp] theorem clearFrame_result (s : State) : (clearFrame s).result = s.result := rfl
@[simp] theorem clearFrame_crcAcc (s : State) : (clearFrame s).crcAcc = s.crcAcc := rfl
@[simp] theorem clearFrame_hbuf (s : State) : (clearFrame s).hbuf = s.hbuf := rfl
@[simp] theorem clearFrame_hf (s : State) : (clearFrame s).hf = s.hf := rfl
@[simp] theorem clearFrame_rh (s : State) : (clearFrame s).rh = s.rh := rfl
@[simp] theorem clearFrame_slotExpect (s : State) : (clearFrame s).slotExpect = s.slotExpect := rfl
@[simp] theorem clearFrame_slotTag (s : State) : (clearFrame s).slotTag = s.slotTag := rfl
@[simp] theorem clearFrame_slotLen (s : State) : (clearFrame s).slotLen = s.slotLen := rfl
@[simp] theorem clearFrame_slotResp (s : State) : (clearFrame s).slotResp = s.slotResp := rfl
@[simp] theorem clearFrame_slotCrc (s : State) : (clearFrame s).slotCrc = s.slotCrc := rfl
@[simp] theorem clearFrame_slotText (s : State) : (clearFrame s).slotText = s.slotText := rfl
@[simp] theorem clearFrame_slotValid (s : State) : (clearFrame s).slotValid = s.slotValid := rfl
@[simp] theorem clearFrame_pending (s : State) : (clearFrame s).pending = s.pending := rfl
@[simp] theorem clearFrame_tmFifo (s : State) : (clearFrame s).tmFifo = s.tmFifo := rfl
@[simp] theorem clearFrame_tmNextSeq (s : State) : (clearFrame s).tmNextSeq = s.tmNextSeq := rfl
@[simp] theorem clearFrame_dt (s : State) : (clearFrame s).dt = s.dt := rfl
@[simp] theorem clearFrame_cnt (s : State) : (clearFrame s).cnt = s.cnt := rfl
@[simp] theorem clearFrame_txBody (s : State) : (clearFrame s).txBody = s.txBody := rfl
@[simp] theorem clearFrame_rx (s : State) : (clearFrame s).rx = Rx.cleared := rfl
@[simp] theorem clearFrame_tx (s : State) : (clearFrame s).tx = s.tx := rfl
@[simp] theorem clearFrame_env (s : State) : (clearFrame s).env = s.env := rfl

/-! ## clearSticky -/

@[simp] theorem clearSticky_ctrl (v : Word) (s : State) : (clearSticky v s).ctrl = s.ctrl := rfl
@[simp] theorem clearSticky_sticky (v : Word) (s : State) : (clearSticky v s).sticky = s.sticky &&& ~~~(v &&& stickyMask) := rfl
@[simp] theorem clearSticky_irqEn (v : Word) (s : State) : (clearSticky v s).irqEn = s.irqEn := rfl
@[simp] theorem clearSticky_sync (v : Word) (s : State) : (clearSticky v s).sync = s.sync := rfl
@[simp] theorem clearSticky_result (v : Word) (s : State) : (clearSticky v s).result = s.result := rfl
@[simp] theorem clearSticky_crcAcc (v : Word) (s : State) : (clearSticky v s).crcAcc = s.crcAcc := rfl
@[simp] theorem clearSticky_hbuf (v : Word) (s : State) : (clearSticky v s).hbuf = s.hbuf := rfl
@[simp] theorem clearSticky_hf (v : Word) (s : State) : (clearSticky v s).hf = s.hf := rfl
@[simp] theorem clearSticky_rh (v : Word) (s : State) : (clearSticky v s).rh = s.rh := rfl
@[simp] theorem clearSticky_slotExpect (v : Word) (s : State) : (clearSticky v s).slotExpect = s.slotExpect := rfl
@[simp] theorem clearSticky_slotTag (v : Word) (s : State) : (clearSticky v s).slotTag = s.slotTag := rfl
@[simp] theorem clearSticky_slotLen (v : Word) (s : State) : (clearSticky v s).slotLen = s.slotLen := rfl
@[simp] theorem clearSticky_slotResp (v : Word) (s : State) : (clearSticky v s).slotResp = s.slotResp := rfl
@[simp] theorem clearSticky_slotCrc (v : Word) (s : State) : (clearSticky v s).slotCrc = s.slotCrc := rfl
@[simp] theorem clearSticky_slotText (v : Word) (s : State) : (clearSticky v s).slotText = s.slotText := rfl
@[simp] theorem clearSticky_slotValid (v : Word) (s : State) : (clearSticky v s).slotValid = s.slotValid := rfl
@[simp] theorem clearSticky_pending (v : Word) (s : State) : (clearSticky v s).pending = s.pending := rfl
@[simp] theorem clearSticky_tmFifo (v : Word) (s : State) : (clearSticky v s).tmFifo = s.tmFifo := rfl
@[simp] theorem clearSticky_tmNextSeq (v : Word) (s : State) : (clearSticky v s).tmNextSeq = s.tmNextSeq := rfl
@[simp] theorem clearSticky_dt (v : Word) (s : State) : (clearSticky v s).dt = s.dt := rfl
@[simp] theorem clearSticky_cnt (v : Word) (s : State) : (clearSticky v s).cnt = s.cnt := rfl
@[simp] theorem clearSticky_txBody (v : Word) (s : State) : (clearSticky v s).txBody = s.txBody := rfl
@[simp] theorem clearSticky_rx (v : Word) (s : State) : (clearSticky v s).rx = s.rx := rfl
@[simp] theorem clearSticky_tx (v : Word) (s : State) : (clearSticky v s).tx = s.tx := rfl
@[simp] theorem clearSticky_env (v : Word) (s : State) : (clearSticky v s).env = s.env := rfl

/-! ## takeSync -/

@[simp] theorem takeSync_ctrl (k : Nat) (st : ScanState) (b : Byte) (s : State) : (takeSync k st b s).ctrl = s.ctrl := rfl
@[simp] theorem takeSync_sticky (k : Nat) (st : ScanState) (b : Byte) (s : State) : (takeSync k st b s).sticky = s.sticky := rfl
@[simp] theorem takeSync_irqEn (k : Nat) (st : ScanState) (b : Byte) (s : State) : (takeSync k st b s).irqEn = s.irqEn := rfl
@[simp] theorem takeSync_sync (k : Nat) (st : ScanState) (b : Byte) (s : State) : (takeSync k st b s).sync = s.sync := rfl
@[simp] theorem takeSync_result (k : Nat) (st : ScanState) (b : Byte) (s : State) : (takeSync k st b s).result = s.result := rfl
@[simp] theorem takeSync_crcAcc (k : Nat) (st : ScanState) (b : Byte) (s : State) : (takeSync k st b s).crcAcc = s.crcAcc := rfl
@[simp] theorem takeSync_hbuf (k : Nat) (st : ScanState) (b : Byte) (s : State) : (takeSync k st b s).hbuf = s.hbuf := rfl
@[simp] theorem takeSync_hf (k : Nat) (st : ScanState) (b : Byte) (s : State) : (takeSync k st b s).hf = s.hf := rfl
@[simp] theorem takeSync_rh (k : Nat) (st : ScanState) (b : Byte) (s : State) : (takeSync k st b s).rh = s.rh := rfl
@[simp] theorem takeSync_slotExpect (k : Nat) (st : ScanState) (b : Byte) (s : State) : (takeSync k st b s).slotExpect = s.slotExpect := rfl
@[simp] theorem takeSync_slotTag (k : Nat) (st : ScanState) (b : Byte) (s : State) : (takeSync k st b s).slotTag = s.slotTag := rfl
@[simp] theorem takeSync_slotLen (k : Nat) (st : ScanState) (b : Byte) (s : State) : (takeSync k st b s).slotLen = s.slotLen := rfl
@[simp] theorem takeSync_slotResp (k : Nat) (st : ScanState) (b : Byte) (s : State) : (takeSync k st b s).slotResp = s.slotResp := rfl
@[simp] theorem takeSync_slotCrc (k : Nat) (st : ScanState) (b : Byte) (s : State) : (takeSync k st b s).slotCrc = s.slotCrc := rfl
@[simp] theorem takeSync_slotText (k : Nat) (st : ScanState) (b : Byte) (s : State) : (takeSync k st b s).slotText = s.slotText := rfl
@[simp] theorem takeSync_slotValid (k : Nat) (st : ScanState) (b : Byte) (s : State) : (takeSync k st b s).slotValid = s.slotValid := rfl
@[simp] theorem takeSync_pending (k : Nat) (st : ScanState) (b : Byte) (s : State) : (takeSync k st b s).pending = s.pending := rfl
@[simp] theorem takeSync_tmFifo (k : Nat) (st : ScanState) (b : Byte) (s : State) : (takeSync k st b s).tmFifo = s.tmFifo := rfl
@[simp] theorem takeSync_tmNextSeq (k : Nat) (st : ScanState) (b : Byte) (s : State) : (takeSync k st b s).tmNextSeq = s.tmNextSeq := rfl
@[simp] theorem takeSync_dt (k : Nat) (st : ScanState) (b : Byte) (s : State) : (takeSync k st b s).dt = s.dt := rfl
@[simp] theorem takeSync_cnt (k : Nat) (st : ScanState) (b : Byte) (s : State) : (takeSync k st b s).cnt = s.cnt := rfl
@[simp] theorem takeSync_txBody (k : Nat) (st : ScanState) (b : Byte) (s : State) : (takeSync k st b s).txBody = s.txBody := rfl
@[simp] theorem takeSync_rx (k : Nat) (st : ScanState) (b : Byte) (s : State) : (takeSync k st b s).rx = { s.rx with hbuf := Memory.write s.rx.hbuf k b, hcnt := k + 1, state := st } := rfl
@[simp] theorem takeSync_tx (k : Nat) (st : ScanState) (b : Byte) (s : State) : (takeSync k st b s).tx = s.tx := rfl
@[simp] theorem takeSync_env (k : Nat) (st : ScanState) (b : Byte) (s : State) : (takeSync k st b s).env = s.env := rfl

/-! ## headerTaken -/

@[simp] theorem headerTaken_ctrl (f : HdrWords) (s : State) : (headerTaken f s).ctrl = s.ctrl := rfl
@[simp] theorem headerTaken_sticky (f : HdrWords) (s : State) : (headerTaken f s).sticky = s.sticky := rfl
@[simp] theorem headerTaken_irqEn (f : HdrWords) (s : State) : (headerTaken f s).irqEn = s.irqEn := rfl
@[simp] theorem headerTaken_sync (f : HdrWords) (s : State) : (headerTaken f s).sync = s.sync := rfl
@[simp] theorem headerTaken_result (f : HdrWords) (s : State) : (headerTaken f s).result = s.result := rfl
@[simp] theorem headerTaken_crcAcc (f : HdrWords) (s : State) : (headerTaken f s).crcAcc = s.crcAcc := rfl
@[simp] theorem headerTaken_hbuf (f : HdrWords) (s : State) : (headerTaken f s).hbuf = s.hbuf := rfl
@[simp] theorem headerTaken_hf (f : HdrWords) (s : State) : (headerTaken f s).hf = s.hf := rfl
@[simp] theorem headerTaken_rh (f : HdrWords) (s : State) : (headerTaken f s).rh = f := rfl
@[simp] theorem headerTaken_slotExpect (f : HdrWords) (s : State) : (headerTaken f s).slotExpect = s.slotExpect := rfl
@[simp] theorem headerTaken_slotTag (f : HdrWords) (s : State) : (headerTaken f s).slotTag = s.slotTag := rfl
@[simp] theorem headerTaken_slotLen (f : HdrWords) (s : State) : (headerTaken f s).slotLen = s.slotLen := rfl
@[simp] theorem headerTaken_slotResp (f : HdrWords) (s : State) : (headerTaken f s).slotResp = s.slotResp := rfl
@[simp] theorem headerTaken_slotCrc (f : HdrWords) (s : State) : (headerTaken f s).slotCrc = s.slotCrc := rfl
@[simp] theorem headerTaken_slotText (f : HdrWords) (s : State) : (headerTaken f s).slotText = s.slotText := rfl
@[simp] theorem headerTaken_slotValid (f : HdrWords) (s : State) : (headerTaken f s).slotValid = s.slotValid := rfl
@[simp] theorem headerTaken_pending (f : HdrWords) (s : State) : (headerTaken f s).pending = s.pending := rfl
@[simp] theorem headerTaken_tmFifo (f : HdrWords) (s : State) : (headerTaken f s).tmFifo = s.tmFifo := rfl
@[simp] theorem headerTaken_tmNextSeq (f : HdrWords) (s : State) : (headerTaken f s).tmNextSeq = s.tmNextSeq := rfl
@[simp] theorem headerTaken_dt (f : HdrWords) (s : State) : (headerTaken f s).dt = s.dt := rfl
@[simp] theorem headerTaken_cnt (f : HdrWords) (s : State) : (headerTaken f s).cnt = { s.cnt with frames := s.cnt.frames + 1 } := rfl
@[simp] theorem headerTaken_txBody (f : HdrWords) (s : State) : (headerTaken f s).txBody = s.txBody := rfl
@[simp] theorem headerTaken_rx (f : HdrWords) (s : State) : (headerTaken f s).rx =
    { s.rx with msgId := f.f0.extractLsb' 0 16, msgType := f.f0.extractLsb' 16 8, bodyLen := f.f1.extractLsb' 0 16,
                crc := crc (Memory.bytes s.rx.hbuf 0 28), deliver := true } := rfl
@[simp] theorem headerTaken_tx (f : HdrWords) (s : State) : (headerTaken f s).tx = s.tx := rfl
@[simp] theorem headerTaken_env (f : HdrWords) (s : State) : (headerTaken f s).env = s.env := rfl

/-! ## txBuild -/

@[simp] theorem txBuild_ctrl (n : Nat) (s : State) : (txBuild n s).ctrl = s.ctrl := by
  simp only [txBuild]
@[simp] theorem txBuild_sticky (n : Nat) (s : State) : (txBuild n s).sticky = s.sticky := by
  simp only [txBuild]
@[simp] theorem txBuild_irqEn (n : Nat) (s : State) : (txBuild n s).irqEn = s.irqEn := by
  simp only [txBuild]
@[simp] theorem txBuild_sync (n : Nat) (s : State) : (txBuild n s).sync = s.sync := by
  simp only [txBuild]
@[simp] theorem txBuild_result (n : Nat) (s : State) : (txBuild n s).result = s.result := by
  simp only [txBuild]
@[simp] theorem txBuild_crcAcc (n : Nat) (s : State) : (txBuild n s).crcAcc = s.crcAcc := by
  simp only [txBuild]
@[simp] theorem txBuild_hbuf (n : Nat) (s : State) : (txBuild n s).hbuf = Memory.writeBytes s.hbuf 0 (pack s.sync (withBodyLen s.hf n)) := by
  simp only [txBuild]
@[simp] theorem txBuild_hf (n : Nat) (s : State) : (txBuild n s).hf = withBodyLen s.hf n := by
  simp only [txBuild]
@[simp] theorem txBuild_rh (n : Nat) (s : State) : (txBuild n s).rh = s.rh := by
  simp only [txBuild]
@[simp] theorem txBuild_slotExpect (n : Nat) (s : State) : (txBuild n s).slotExpect = s.slotExpect := by
  simp only [txBuild]
@[simp] theorem txBuild_slotTag (n : Nat) (s : State) : (txBuild n s).slotTag = s.slotTag := by
  simp only [txBuild]
@[simp] theorem txBuild_slotLen (n : Nat) (s : State) : (txBuild n s).slotLen = s.slotLen := by
  simp only [txBuild]
@[simp] theorem txBuild_slotResp (n : Nat) (s : State) : (txBuild n s).slotResp = s.slotResp := by
  simp only [txBuild]
@[simp] theorem txBuild_slotCrc (n : Nat) (s : State) : (txBuild n s).slotCrc = s.slotCrc := by
  simp only [txBuild]
@[simp] theorem txBuild_slotText (n : Nat) (s : State) : (txBuild n s).slotText = s.slotText := by
  simp only [txBuild]
@[simp] theorem txBuild_slotValid (n : Nat) (s : State) : (txBuild n s).slotValid = s.slotValid := by
  simp only [txBuild]
@[simp] theorem txBuild_pending (n : Nat) (s : State) : (txBuild n s).pending = s.pending := by
  simp only [txBuild]
@[simp] theorem txBuild_tmFifo (n : Nat) (s : State) : (txBuild n s).tmFifo = s.tmFifo := by
  simp only [txBuild]
@[simp] theorem txBuild_tmNextSeq (n : Nat) (s : State) : (txBuild n s).tmNextSeq = s.tmNextSeq := by
  simp only [txBuild]
@[simp] theorem txBuild_dt (n : Nat) (s : State) : (txBuild n s).dt = s.dt := by
  simp only [txBuild]
@[simp] theorem txBuild_cnt (n : Nat) (s : State) : (txBuild n s).cnt = s.cnt := by
  simp only [txBuild]
@[simp] theorem txBuild_txBody (n : Nat) (s : State) : (txBuild n s).txBody = s.txBody := by
  simp only [txBuild]
@[simp] theorem txBuild_rx (n : Nat) (s : State) : (txBuild n s).rx = s.rx := by
  simp only [txBuild]
@[simp] theorem txBuild_tx (n : Nat) (s : State) : (txBuild n s).tx = { buf := Memory.writeBytes s.tx.buf 0 (txFrame s n), len := 32 + n, pos := 0 } := by
  simp only [txBuild]
@[simp] theorem txBuild_env (n : Nat) (s : State) : (txBuild n s).env = s.env := by
  simp only [txBuild]

/-! ## issueNext -/

@[simp] theorem issueNext_ctrl (w : Word) (s : State) : (issueNext w s).ctrl = s.ctrl := rfl
@[simp] theorem issueNext_sticky (w : Word) (s : State) : (issueNext w s).sticky = s.sticky := rfl
@[simp] theorem issueNext_irqEn (w : Word) (s : State) : (issueNext w s).irqEn = s.irqEn := rfl
@[simp] theorem issueNext_sync (w : Word) (s : State) : (issueNext w s).sync = s.sync := rfl
@[simp] theorem issueNext_result (w : Word) (s : State) : (issueNext w s).result = s.result := rfl
@[simp] theorem issueNext_crcAcc (w : Word) (s : State) : (issueNext w s).crcAcc = s.crcAcc := rfl
@[simp] theorem issueNext_hbuf (w : Word) (s : State) : (issueNext w s).hbuf = s.hbuf := rfl
@[simp] theorem issueNext_hf (w : Word) (s : State) : (issueNext w s).hf = s.hf := rfl
@[simp] theorem issueNext_rh (w : Word) (s : State) : (issueNext w s).rh = s.rh := rfl
@[simp] theorem issueNext_slotExpect (w : Word) (s : State) : (issueNext w s).slotExpect = s.slotExpect := rfl
@[simp] theorem issueNext_slotTag (w : Word) (s : State) : (issueNext w s).slotTag = s.slotTag := rfl
@[simp] theorem issueNext_slotLen (w : Word) (s : State) : (issueNext w s).slotLen = s.slotLen := rfl
@[simp] theorem issueNext_slotResp (w : Word) (s : State) : (issueNext w s).slotResp = s.slotResp := rfl
@[simp] theorem issueNext_slotCrc (w : Word) (s : State) : (issueNext w s).slotCrc = s.slotCrc := rfl
@[simp] theorem issueNext_slotText (w : Word) (s : State) : (issueNext w s).slotText = s.slotText := rfl
@[simp] theorem issueNext_slotValid (w : Word) (s : State) : (issueNext w s).slotValid = s.slotValid := rfl
@[simp] theorem issueNext_pending (w : Word) (s : State) : (issueNext w s).pending = s.pending := rfl
@[simp] theorem issueNext_tmFifo (w : Word) (s : State) : (issueNext w s).tmFifo = s.tmFifo := rfl
@[simp] theorem issueNext_tmNextSeq (w : Word) (s : State) : (issueNext w s).tmNextSeq = s.tmNextSeq := rfl
@[simp] theorem issueNext_dt (w : Word) (s : State) : (issueNext w s).dt = s.dt := rfl
@[simp] theorem issueNext_cnt (w : Word) (s : State) : (issueNext w s).cnt = s.cnt := rfl
@[simp] theorem issueNext_txBody (w : Word) (s : State) : (issueNext w s).txBody = s.txBody := rfl
@[simp] theorem issueNext_rx (w : Word) (s : State) : (issueNext w s).rx = s.rx := rfl
@[simp] theorem issueNext_tx (w : Word) (s : State) : (issueNext w s).tx = s.tx := rfl
@[simp] theorem issueNext_env (w : Word) (s : State) : (issueNext w s).env = { s.env with agenda := .hostWrite cmdOffset 4 w :: s.env.agenda } := rfl

/-! ## blockReset -/

@[simp] theorem blockReset_ctrl (s : State) : (blockReset s).ctrl = State.reset.ctrl := rfl
@[simp] theorem blockReset_sticky (s : State) : (blockReset s).sticky = State.reset.sticky := rfl
@[simp] theorem blockReset_irqEn (s : State) : (blockReset s).irqEn = State.reset.irqEn := rfl
@[simp] theorem blockReset_sync (s : State) : (blockReset s).sync = State.reset.sync := rfl
@[simp] theorem blockReset_result (s : State) : (blockReset s).result = State.reset.result := rfl
@[simp] theorem blockReset_crcAcc (s : State) : (blockReset s).crcAcc = State.reset.crcAcc := rfl
@[simp] theorem blockReset_hbuf (s : State) : (blockReset s).hbuf = State.reset.hbuf := rfl
@[simp] theorem blockReset_hf (s : State) : (blockReset s).hf = State.reset.hf := rfl
@[simp] theorem blockReset_rh (s : State) : (blockReset s).rh = State.reset.rh := rfl
@[simp] theorem blockReset_slotExpect (s : State) : (blockReset s).slotExpect = State.reset.slotExpect := rfl
@[simp] theorem blockReset_slotTag (s : State) : (blockReset s).slotTag = State.reset.slotTag := rfl
@[simp] theorem blockReset_slotLen (s : State) : (blockReset s).slotLen = State.reset.slotLen := rfl
@[simp] theorem blockReset_slotResp (s : State) : (blockReset s).slotResp = State.reset.slotResp := rfl
@[simp] theorem blockReset_slotCrc (s : State) : (blockReset s).slotCrc = State.reset.slotCrc := rfl
@[simp] theorem blockReset_slotText (s : State) : (blockReset s).slotText = State.reset.slotText := rfl
@[simp] theorem blockReset_slotValid (s : State) : (blockReset s).slotValid = State.reset.slotValid := rfl
@[simp] theorem blockReset_pending (s : State) : (blockReset s).pending = State.reset.pending := rfl
@[simp] theorem blockReset_tmFifo (s : State) : (blockReset s).tmFifo = State.reset.tmFifo := rfl
@[simp] theorem blockReset_tmNextSeq (s : State) : (blockReset s).tmNextSeq = State.reset.tmNextSeq := rfl
@[simp] theorem blockReset_dt (s : State) : (blockReset s).dt = State.reset.dt := rfl
@[simp] theorem blockReset_cnt (s : State) : (blockReset s).cnt = State.reset.cnt := rfl
@[simp] theorem blockReset_txBody (s : State) : (blockReset s).txBody = State.reset.txBody := rfl
@[simp] theorem blockReset_rx (s : State) : (blockReset s).rx = State.reset.rx := rfl
@[simp] theorem blockReset_tx (s : State) : (blockReset s).tx = State.reset.tx := rfl
@[simp] theorem blockReset_env (s : State) : (blockReset s).env = s.env := rfl

/-! ## result: every field but RESULT and the sticky bits is as before -/

@[simp] theorem result_ctrl (o : Byte) (c : Code) (a : Half) (s : State) : (result o c a s).ctrl = s.ctrl := by
  cases c <;> rfl
@[simp] theorem result_irqEn (o : Byte) (c : Code) (a : Half) (s : State) : (result o c a s).irqEn = s.irqEn := by
  cases c <;> rfl
@[simp] theorem result_sync (o : Byte) (c : Code) (a : Half) (s : State) : (result o c a s).sync = s.sync := by
  cases c <;> rfl
@[simp] theorem result_crcAcc (o : Byte) (c : Code) (a : Half) (s : State) : (result o c a s).crcAcc = s.crcAcc := by
  cases c <;> rfl
@[simp] theorem result_hbuf (o : Byte) (c : Code) (a : Half) (s : State) : (result o c a s).hbuf = s.hbuf := by
  cases c <;> rfl
@[simp] theorem result_hf (o : Byte) (c : Code) (a : Half) (s : State) : (result o c a s).hf = s.hf := by
  cases c <;> rfl
@[simp] theorem result_rh (o : Byte) (c : Code) (a : Half) (s : State) : (result o c a s).rh = s.rh := by
  cases c <;> rfl
@[simp] theorem result_slotExpect (o : Byte) (c : Code) (a : Half) (s : State) : (result o c a s).slotExpect = s.slotExpect := by
  cases c <;> rfl
@[simp] theorem result_slotTag (o : Byte) (c : Code) (a : Half) (s : State) : (result o c a s).slotTag = s.slotTag := by
  cases c <;> rfl
@[simp] theorem result_slotLen (o : Byte) (c : Code) (a : Half) (s : State) : (result o c a s).slotLen = s.slotLen := by
  cases c <;> rfl
@[simp] theorem result_slotResp (o : Byte) (c : Code) (a : Half) (s : State) : (result o c a s).slotResp = s.slotResp := by
  cases c <;> rfl
@[simp] theorem result_slotCrc (o : Byte) (c : Code) (a : Half) (s : State) : (result o c a s).slotCrc = s.slotCrc := by
  cases c <;> rfl
@[simp] theorem result_slotText (o : Byte) (c : Code) (a : Half) (s : State) : (result o c a s).slotText = s.slotText := by
  cases c <;> rfl
@[simp] theorem result_slotValid (o : Byte) (c : Code) (a : Half) (s : State) : (result o c a s).slotValid = s.slotValid := by
  cases c <;> rfl
@[simp] theorem result_pending (o : Byte) (c : Code) (a : Half) (s : State) : (result o c a s).pending = s.pending := by
  cases c <;> rfl
@[simp] theorem result_tmFifo (o : Byte) (c : Code) (a : Half) (s : State) : (result o c a s).tmFifo = s.tmFifo := by
  cases c <;> rfl
@[simp] theorem result_tmNextSeq (o : Byte) (c : Code) (a : Half) (s : State) : (result o c a s).tmNextSeq = s.tmNextSeq := by
  cases c <;> rfl
@[simp] theorem result_dt (o : Byte) (c : Code) (a : Half) (s : State) : (result o c a s).dt = s.dt := by
  cases c <;> rfl
@[simp] theorem result_cnt (o : Byte) (c : Code) (a : Half) (s : State) : (result o c a s).cnt = s.cnt := by
  cases c <;> rfl
@[simp] theorem result_txBody (o : Byte) (c : Code) (a : Half) (s : State) : (result o c a s).txBody = s.txBody := by
  cases c <;> rfl
@[simp] theorem result_rx (o : Byte) (c : Code) (a : Half) (s : State) : (result o c a s).rx = s.rx := by
  cases c <;> rfl
@[simp] theorem result_tx (o : Byte) (c : Code) (a : Half) (s : State) : (result o c a s).tx = s.tx := by
  cases c <;> rfl
@[simp] theorem result_env (o : Byte) (c : Code) (a : Half) (s : State) : (result o c a s).env = s.env := by
  cases c <;> rfl
@[simp] theorem result_result (o : Byte) (c : Code) (a : Half) (s : State) : (result o c a s).result = resultWord o c a := by
  cases c <;> rfl
@[simp] theorem result_sticky_ok (o : Byte) (a : Half) (s : State) : (result o .ok a s).sticky = s.sticky := rfl
theorem result_sticky (o : Byte) (c : Code) (a : Half) (s : State) :
    (result o c a s).sticky = if c = .ok then s.sticky else s.sticky ||| Event.opErr.mask := by
  cases c <;> rfl

/-! ## afterTurn: only the environment's agenda and draw count move -/

@[simp] theorem afterTurn_ctrl (s : State) : (afterTurn s).ctrl = s.ctrl := by
  unfold afterTurn; split <;> rfl
@[simp] theorem afterTurn_sticky (s : State) : (afterTurn s).sticky = s.sticky := by
  unfold afterTurn; split <;> rfl
@[simp] theorem afterTurn_irqEn (s : State) : (afterTurn s).irqEn = s.irqEn := by
  unfold afterTurn; split <;> rfl
@[simp] theorem afterTurn_sync (s : State) : (afterTurn s).sync = s.sync := by
  unfold afterTurn; split <;> rfl
@[simp] theorem afterTurn_result (s : State) : (afterTurn s).result = s.result := by
  unfold afterTurn; split <;> rfl
@[simp] theorem afterTurn_crcAcc (s : State) : (afterTurn s).crcAcc = s.crcAcc := by
  unfold afterTurn; split <;> rfl
@[simp] theorem afterTurn_hbuf (s : State) : (afterTurn s).hbuf = s.hbuf := by
  unfold afterTurn; split <;> rfl
@[simp] theorem afterTurn_hf (s : State) : (afterTurn s).hf = s.hf := by
  unfold afterTurn; split <;> rfl
@[simp] theorem afterTurn_rh (s : State) : (afterTurn s).rh = s.rh := by
  unfold afterTurn; split <;> rfl
@[simp] theorem afterTurn_slotExpect (s : State) : (afterTurn s).slotExpect = s.slotExpect := by
  unfold afterTurn; split <;> rfl
@[simp] theorem afterTurn_slotTag (s : State) : (afterTurn s).slotTag = s.slotTag := by
  unfold afterTurn; split <;> rfl
@[simp] theorem afterTurn_slotLen (s : State) : (afterTurn s).slotLen = s.slotLen := by
  unfold afterTurn; split <;> rfl
@[simp] theorem afterTurn_slotResp (s : State) : (afterTurn s).slotResp = s.slotResp := by
  unfold afterTurn; split <;> rfl
@[simp] theorem afterTurn_slotCrc (s : State) : (afterTurn s).slotCrc = s.slotCrc := by
  unfold afterTurn; split <;> rfl
@[simp] theorem afterTurn_slotText (s : State) : (afterTurn s).slotText = s.slotText := by
  unfold afterTurn; split <;> rfl
@[simp] theorem afterTurn_slotValid (s : State) : (afterTurn s).slotValid = s.slotValid := by
  unfold afterTurn; split <;> rfl
@[simp] theorem afterTurn_pending (s : State) : (afterTurn s).pending = s.pending := by
  unfold afterTurn; split <;> rfl
@[simp] theorem afterTurn_tmFifo (s : State) : (afterTurn s).tmFifo = s.tmFifo := by
  unfold afterTurn; split <;> rfl
@[simp] theorem afterTurn_tmNextSeq (s : State) : (afterTurn s).tmNextSeq = s.tmNextSeq := by
  unfold afterTurn; split <;> rfl
@[simp] theorem afterTurn_dt (s : State) : (afterTurn s).dt = s.dt := by
  unfold afterTurn; split <;> rfl
@[simp] theorem afterTurn_cnt (s : State) : (afterTurn s).cnt = s.cnt := by
  unfold afterTurn; split <;> rfl
@[simp] theorem afterTurn_txBody (s : State) : (afterTurn s).txBody = s.txBody := by
  unfold afterTurn; split <;> rfl
@[simp] theorem afterTurn_rx (s : State) : (afterTurn s).rx = s.rx := by
  unfold afterTurn; split <;> rfl
@[simp] theorem afterTurn_tx (s : State) : (afterTurn s).tx = s.tx := by
  unfold afterTurn; split <;> rfl
@[simp] theorem afterTurn_env_rxStream (s : State) : (afterTurn s).env.rxStream = s.env.rxStream := by
  unfold afterTurn; split <;> rfl
@[simp] theorem afterTurn_env_txWire (s : State) : (afterTurn s).env.txWire = s.env.txWire := by
  unfold afterTurn; split <;> rfl
@[simp] theorem afterTurn_env_timeIn (s : State) : (afterTurn s).env.timeIn = s.env.timeIn := by
  unfold afterTurn; split <;> rfl
@[simp] theorem afterTurn_env_hostGot (s : State) : (afterTurn s).env.hostGot = s.env.hostGot := by
  unfold afterTurn; split <;> rfl

end Sys2Proof.Machine
end

