-- ==== Sys2Proof/Laws/Ops.lean ====
section
/-! SUPPORT. For each shared operation, once, everything it can do. -/

namespace Sys2Proof.Machine

/-! ## Reset -/

/-- Every buffer is in canonical form after reset. -/
theorem reset_buffersOk : buffersOk State.reset := by decide

/-! ## Operations of the host -/

/-- An operation that is OK writes RESULT and nothing else. -/
theorem result_ok (o : Byte) (a : Half) (s : State) : result o .ok a s = { s with result := resultWord o .ok a } := rfl

/-- An operation that is not OK writes RESULT and raises OP_ERR, and nothing else. -/
theorem result_error (o : Byte) {c : Code} (a : Half) (s : State) (h : c ≠ .ok) :
    result o c a s = event .opErr { s with result := resultWord o c a } := by
  unfold result
  rw [if_neg h]

theorem finish_eq (i : Instr) (c : Code) (a : Half) (s : State) : finish i c a s = .next (result (opcode i) c a s) := rfl

/-- Every operation completes (60_exceptions.md R402): no meaning faults or refuses. -/
theorem exec_next (i : Instr) (s : State) : ∃ t, exec i s = .next t := by
  cases i <;>
    simp only [exec, execNop, execCrcInit, execCrcByte, execCrcHbuf, execCrcTxbody, execHdrPack, execHdrUnpack, execTxSend,
      execTxIssue, execSlotArm, execSlotTake, execSlotCancel, execSlotFlush, execTmPop, execDtLookup, execScanReset,
      execCntClear, finish] <;>
    (repeat' split) <;> exact ⟨_, rfl⟩

/-- An illegal operation word raises OP_ERR and writes RESULT. -/
theorem execIllegal_eq (o : Byte) (s : State) :
    execIllegal o s = event .opErr { s with result := resultWord o .illegal 0 } := rfl

theorem runCommand_ok {w : Word} {i : Instr} (h : decode w = .ok i) (s : State) : runCommand w s = exec i s := by
  unfold runCommand
  rw [h]

theorem runCommand_error {w : Word} {e : DecodeError} (h : decode w = .error e) (s : State) :
    runCommand w s = .next (execIllegal (opcField w) s) := by
  unfold runCommand
  rw [h]

/-! ## Turns -/

theorem step_eq (s : State) : step s = runTurn (turnOf s) (afterTurn s) := rfl

theorem turnOf_cons {s : State} {t : Turn} {ts : List Turn} (h : s.env.agenda = t :: ts) : turnOf s = t := by
  unfold turnOf
  rw [h]

theorem turnOf_nil {s : State} (h : s.env.agenda = []) : turnOf s = Config.freeTurn s.env.draws := by
  unfold turnOf
  rw [h]

theorem checkAccess_ok {off : Offset} {width : Nat} (h : accessOk off width = true) (go : Out) :
    checkAccess off width go = go := by
  simp only [accessOk, Bool.and_eq_true] at h
  simp [checkAccess, h.1, h.2]

/-- A turn answers a next state only where its access, if it makes one, is a whole aligned word; what it then does is one of
these. -/
theorem runTurn_cases {t : Turn} {s s' : State} (h : runTurn t s = .next s') :
    (∃ off w, t = .hostRead off w ∧ accessOk off w = true ∧
      s' = { s with env := { s.env with hostGot := s.env.hostGot ++ [readReg (regAt off) s] } }) ∨
    (∃ off w v, t = .hostWrite off w v ∧ accessOk off w = true ∧ regAt off = .cmd ∧ runCommand v s = .next s') ∨
    (∃ off w v, t = .hostWrite off w v ∧ accessOk off w = true ∧ regAt off ≠ .cmd ∧ s' = writeReg (regAt off) v s) ∨
    (t = .rxe ∧ s' = rxeStep s) ∨
    (t = .txe ∧ s' = txeStep s) ∨
    (∃ b, t = .envRx b ∧ s' = { s with env := { s.env with rxStream := s.env.rxStream ++ [b] } }) ∨
    (∃ x, t = .envTime x ∧ s' = { s with env := { s.env with timeIn := x } }) ∨
    (t = .reset ∧ s' = blockReset s) := by
  have access : ∀ {off w} {go : Out}, checkAccess off w go = .next s' → accessOk off w = true ∧ go = .next s' := by
    intro off w go h
    unfold checkAccess at h
    split at h
    · cases h
    · split at h
      · cases h
      · exact ⟨by simp_all [accessOk], h⟩
  cases t with
  | hostRead off w =>
    obtain ⟨h1, h2⟩ := access h
    exact .inl ⟨off, w, rfl, h1, (Host.Outcome.next.inj h2).symm⟩
  | hostWrite off w v =>
    obtain ⟨h1, h2⟩ := access h
    split at h2
    · rename_i hc
      exact .inr (.inl ⟨off, w, v, rfl, h1, hc, h2⟩)
    · rename_i hc
      exact .inr (.inr (.inl ⟨off, w, v, rfl, h1, hc, (Host.Outcome.next.inj h2).symm⟩))
  | rxe => exact .inr (.inr (.inr (.inl ⟨rfl, (Host.Outcome.next.inj h).symm⟩)))
  | txe => exact .inr (.inr (.inr (.inr (.inl ⟨rfl, (Host.Outcome.next.inj h).symm⟩))))
  | envRx b => exact .inr (.inr (.inr (.inr (.inr (.inl ⟨b, rfl, (Host.Outcome.next.inj h).symm⟩)))))
  | envTime x => exact .inr (.inr (.inr (.inr (.inr (.inr (.inl ⟨x, rfl, (Host.Outcome.next.inj h).symm⟩))))))
  | reset => exact .inr (.inr (.inr (.inr (.inr (.inr (.inr ⟨rfl, (Host.Outcome.next.inj h).symm⟩))))))

/-- An RXE turn takes the first byte waiting, where the engine is ready; otherwise it changes nothing. -/
theorem rxeStep_cases (s : State) :
    (∃ b bs, rxReady s = true ∧ s.env.rxStream = b :: bs ∧
      rxeStep s = rxByte b { s with env := { s.env with rxStream := bs } }) ∨ rxeStep s = s := by
  unfold rxeStep
  by_cases h : rxReady s = true
  · rw [if_pos h]
    cases hs : s.env.rxStream with
    | nil => exact .inr rfl
    | cons b bs => exact .inl ⟨b, bs, h, rfl, rfl⟩
  · rw [if_neg h]
    exact .inr rfl

/-! ## The receive engine -/

theorem rxByte_hunt {s : State} (h : s.rx.state = .hunt) (b : Byte) : rxByte b s = huntByte b s := by
  unfold rxByte; rw [h]
theorem rxByte_sync2 {s : State} (h : s.rx.state = .sync2) (b : Byte) : rxByte b s = sync2Byte b s := by
  unfold rxByte; rw [h]
theorem rxByte_sync3 {s : State} (h : s.rx.state = .sync3) (b : Byte) : rxByte b s = sync3Byte b s := by
  unfold rxByte; rw [h]
theorem rxByte_hdr {s : State} (h : s.rx.state = .hdr) (b : Byte) : rxByte b s = hdrByte b s := by
  unfold rxByte; rw [h]
theorem rxByte_body {s : State} (h : s.rx.state = .body) (b : Byte) : rxByte b s = bodyByte b s := by
  unfold rxByte; rw [h]
theorem rxByte_discard {s : State} (h : s.rx.state = .discard) (b : Byte) : rxByte b s = discardByte s := by
  unfold rxByte; rw [h]

/-- A byte that failed as a sync byte leaves a cleared frame, or starts a new attempt. -/
theorem restart_cases (b : Byte) (s : State) :
    restart b s = clearFrame s ∨
    (resyncFix s = true ∧ b = sync0 s ∧ restart b s = takeSync 0 .sync2 b (clearFrame s)) := by
  unfold restart
  split
  · rename_i h
    simp only [Bool.and_eq_true, beq_iff_eq] at h
    exact .inr ⟨h.1, h.2, rfl⟩
  · exact .inl rfl

/-- What `classify` can do: set up an order, a telemetry body, bytes to discard, or clear the frame; it touches only the
receive state and, through one event, the sticky bits and counters. -/
theorem classify_cases (s : State) :
    (∃ r, r = { s.rx with pos := 0, cls := .order, textLen := s.rx.bodyLen.toNat - 4,
                          consume := s.rx.bodyLen.toNat - 4 + 8, state := .body } ∧
      classify s = { s with rx := r }) ∨
    (∃ r, r = { s.rx with pos := 0, cls := .telem, consume := s.rx.bodyLen.toNat + 4, state := .body } ∧
      (classify s = { s with rx := r } ∨ classify s = event .lenErr { s with rx := { r with deliver := false } })) ∨
    (∃ r, r = { s.rx with pos := 0, cls := .skip, consume := s.rx.bodyLen.toNat + 4, state := .discard } ∧
      (classify s = event .lenErr { s with rx := r } ∨ classify s = event .unrec { s with rx := r })) ∨
    (∃ n, (n = 8 ∨ n = s.rx.bodyLen.toNat + 4) ∧
      classify s = { s with rx := { s.rx with pos := 0, cls := .info, consume := n, state := .discard } }) ∨
    classify s = event .unrec (clearFrame s) := by
  have unrec : ∀ al, (unrecSetup al { s with rx := { s.rx with pos := 0 } } =
        event .unrec { s with rx := { s.rx with pos := 0, cls := .skip, consume := s.rx.bodyLen.toNat + 4, state := .discard } })
      ∨ unrecSetup al { s with rx := { s.rx with pos := 0 } } = event .unrec (clearFrame s) := by
    intro al
    cases al
    · exact .inr rfl
    · exact .inl rfl
  unfold classify
  simp only
  split
  · unfold orderSetup
    simp only
    split
    · exact .inl ⟨_, rfl, rfl⟩
    · exact .inr (.inr (.inl ⟨_, rfl, .inl rfl⟩))
  · unfold telemSetup
    simp only
    split
    · exact .inr (.inl ⟨_, rfl, .inl rfl⟩)
    · exact .inr (.inl ⟨_, rfl, .inr rfl⟩)
  · unfold infoSetup
    refine .inr (.inr (.inr (.inl ⟨_, ?_, rfl⟩)))
    split
    · exact .inr rfl
    · exact .inl rfl
  · rcases unrec (alignOn { s with rx := { s.rx with pos := 0 } }) with h | h
    · exact .inr (.inr (.inl ⟨_, rfl, .inr h⟩))
    · exact .inr (.inr (.inr (.inr h)))
  · rcases unrec (alignOn { s with rx := { s.rx with pos := 0 } }) with h | h
    · exact .inr (.inr (.inl ⟨_, rfl, .inr h⟩))
    · exact .inr (.inr (.inr (.inr h)))

/-- A header is either no frame start, or is taken and classified. -/
theorem headerDone_cases (s : State) :
    (unpack s.rx.hbuf s.sync = none ∧ headerDone s = clearFrame (event .framing s)) ∨
    (∃ f, unpack s.rx.hbuf s.sync = some f ∧ headerDone s = classify (headerTaken f s)) := by
  unfold headerDone
  cases h : unpack s.rx.hbuf s.sync with
  | none => exact .inl ⟨rfl, rfl⟩
  | some f => exact .inr ⟨f, rfl, rfl⟩

/-- The slot as `deposit` fills it. -/
def heldOrder (rc : Word) (s : State) : State :=
  { s with
    slotTag := 0#8 ++ s.rx.msgType ++ s.rx.msgId
    slotLen := BitVec.ofNat 32 s.rx.textLen
    slotResp := Memory.word s.rx.resp 0
    slotCrc := rc
    slotText := Memory.truncate s.rx.text (min s.rx.textLen Config.hw.textMax)
    slotValid := true }

/-- An order is dropped where the slot is full, and held otherwise. -/
theorem deposit_cases (rc : Word) (s : State) :
    (s.slotValid = true ∧ deposit rc s = event .orderOverrun s) ∨
    (s.slotValid = false ∧ Config.hw.textMax < s.rx.textLen ∧ deposit rc s = event .textTrunc (heldOrder rc s)) ∨
    (s.slotValid = false ∧ s.rx.textLen ≤ Config.hw.textMax ∧ deposit rc s = heldOrder rc s) := by
  unfold deposit
  cases h : s.slotValid with
  | true => exact .inl ⟨rfl, rfl⟩
  | false =>
    by_cases ht : Config.hw.textMax < s.rx.textLen
    · refine .inr (.inl ⟨rfl, ht, ?_⟩)
      simp [ht, heldOrder]
    · refine .inr (.inr ⟨rfl, by omega, ?_⟩)
      simp [ht, heldOrder]

/-- A record is dropped where the FIFO is full, and becomes its tail otherwise. -/
theorem tmAccept_cases (rc : Word) (s : State) :
    (Config.hw.tmFifoDepth ≤ s.tmFifo.length ∧ tmAccept rc s = event .tmOverflow s) ∨
    (s.tmFifo.length < Config.hw.tmFifoDepth ∧
      tmAccept rc s = { s with tmFifo := s.tmFifo ++ [tmRecord rc s], tmNextSeq := s.tmNextSeq + 1 }) := by
  unfold tmAccept
  split
  · rename_i h
    exact .inl ⟨h, rfl⟩
  · rename_i h
    exact .inr ⟨by omega, rfl⟩

/-- A frame's end delivers an order or a record, or nothing, and clears the frame. -/
theorem frameEnd_cases (s : State) :
    frameEnd s = clearFrame (event .crcErr s) ∨
    (s.rx.cls = .order ∧ frameEnd s = clearFrame (deposit (rcOf s.rx) s)) ∨
    (s.rx.cls = .telem ∧ s.rx.deliver = true ∧ frameEnd s = clearFrame (tmAccept (rcOf s.rx) s)) ∨
    frameEnd s = clearFrame s := by
  unfold frameEnd
  split
  · exact .inl rfl
  · unfold deliverFrame
    cases hc : s.rx.cls with
    | noClass => exact .inr (.inr (.inr rfl))
    | order => exact .inr (.inl ⟨rfl, rfl⟩)
    | telem =>
      cases hd : s.rx.deliver with
      | true => exact .inr (.inr (.inl ⟨rfl, rfl, rfl⟩))
      | false => exact .inr (.inr (.inr rfl))
    | info => exact .inr (.inr (.inr rfl))
    | skip => exact .inr (.inr (.inr rfl))

/-- What a body byte leaves alone in the receive state. -/
theorem bodyTaken_frame (b : Byte) (r : Rx) :
    (bodyTaken b r).state = r.state ∧ (bodyTaken b r).hbuf = r.hbuf ∧ (bodyTaken b r).hcnt = r.hcnt ∧
    (bodyTaken b r).msgId = r.msgId ∧ (bodyTaken b r).msgType = r.msgType ∧ (bodyTaken b r).bodyLen = r.bodyLen ∧
    (bodyTaken b r).cls = r.cls ∧ (bodyTaken b r).consume = r.consume ∧ (bodyTaken b r).textLen = r.textLen ∧
    (bodyTaken b r).deliver = r.deliver ∧ (bodyTaken b r).pos = r.pos + 1 := by
  have hc : ∃ c m, bodyCrc b r = { r with crc := c, rcrc := m } := by
    unfold bodyCrc
    split
    · exact ⟨_, r.rcrc, rfl⟩
    · exact ⟨r.crc, _, rfl⟩
  obtain ⟨c, m, hc⟩ := hc
  unfold bodyTaken
  rw [hc]
  unfold bodyStore
  (repeat' split) <;> exact ⟨rfl, rfl, rfl, rfl, rfl, rfl, rfl, rfl, rfl, rfl, rfl⟩

/-! ## The transmit engine -/

/-- A TXE turn emits the byte at tx_pos while a frame is being sent, and changes nothing otherwise. -/
theorem txeStep_cases (s : State) :
    (s.tx.pos < s.tx.len ∧
      txeStep s = { s with tx := { s.tx with pos := s.tx.pos + 1 },
                           env := { s.env with txWire := s.env.txWire ++ [Memory.read s.tx.buf s.tx.pos] } }) ∨
    (s.tx.len ≤ s.tx.pos ∧ txeStep s = s) := by
  unfold txeStep txBusy
  by_cases h : s.tx.pos < s.tx.len
  · exact .inl ⟨h, by simp [h]⟩
  · exact .inr ⟨by omega, by simp [h]⟩

@[simp] theorem pack_length (sync : Word) (f : HdrWords) : (pack sync f).length = 28 := rfl

@[simp] theorem sealFrame_length (h b : List Byte) : (sealFrame h b).length = h.length + b.length + 4 := by
  simp [sealFrame, Nat.add_assoc]

@[simp] theorem txFrame_length (s : State) (n : Nat) : (txFrame s n).length = 32 + n := by
  simp only [txFrame, sealFrame_length, pack_length, Memory.bytes_length]
  omega

end Sys2Proof.Machine
end

