-- ==== Sys2Proof/Laws/PerInstr.lean ====
section
/-! SUPPORT. One statement about the encoding of every operation, proved operation by operation. -/

namespace Sys2Proof.Laws.OpcodeField

/-- The operation word carries the operation's opcode byte (30_encoding.md R143), and every bit the operation does not read is
0 in it (30_encoding.md R140, R146). -/
def Statement (i : Instr) : Prop := opcField (encode i) = opcode i ∧ encode i &&& ~~~readMask i = 0#32

/-- The three fields of an operation word stand where 30_encoding.md R140 puts them. -/
theorem opWord_opcField (h : Half) (b opc : Byte) : opcField (opWord h b opc) = opc := by
  apply BitVec.eq_of_getLsbD_eq
  intro i hi
  simp only [opcField, opWord, BitVec.getLsbD_extractLsb', BitVec.getLsbD_append]
  simp [hi]

/-- A word without B has no bit outside H and OPC. -/
theorem opWord_unread_b (h : Half) (opc : Byte) : opWord h 0 opc &&& ~~~0xFFFF00FF#32 = 0#32 := by
  apply BitVec.eq_of_getLsbD_eq
  intro i hi
  rw [BitVec.getLsbD_and, opWord, BitVec.getLsbD_append, BitVec.getLsbD_append]
  interval_cases i <;> simp

/-- A word without H has no bit outside B and OPC. -/
theorem opWord_unread_h (b opc : Byte) : opWord 0 b opc &&& ~~~0x0000FFFF#32 = 0#32 := by
  apply BitVec.eq_of_getLsbD_eq
  intro i hi
  rw [BitVec.getLsbD_and, opWord, BitVec.getLsbD_append, BitVec.getLsbD_append]
  interval_cases i <;> simp

theorem nop : Statement .nop := ⟨by decide, by decide⟩
theorem crcInit : Statement .crcInit := ⟨by decide, by decide⟩
theorem crcByte (b : Byte) : Statement (.crcByte b) := ⟨opWord_opcField _ _ _, opWord_unread_h _ _⟩
theorem crcHbuf : Statement .crcHbuf := ⟨by decide, by decide⟩
theorem crcTxbody (n : Nat) : Statement (.crcTxbody n) := ⟨opWord_opcField _ _ _, opWord_unread_b _ _⟩
theorem hdrPack : Statement .hdrPack := ⟨by decide, by decide⟩
theorem hdrUnpack : Statement .hdrUnpack := ⟨by decide, by decide⟩
theorem txSend (n : Nat) : Statement (.txSend n) := ⟨opWord_opcField _ _ _, opWord_unread_b _ _⟩
theorem txIssue (n : Nat) : Statement (.txIssue n) := ⟨opWord_opcField _ _ _, opWord_unread_b _ _⟩
theorem slotArm (x : Half) : Statement (.slotArm x) := ⟨opWord_opcField _ _ _, opWord_unread_b _ _⟩
theorem slotTake : Statement .slotTake := ⟨by decide, by decide⟩
theorem slotCancel : Statement .slotCancel := ⟨by decide, by decide⟩
theorem slotFlush : Statement .slotFlush := ⟨by decide, by decide⟩
theorem tmPop : Statement .tmPop := ⟨by decide, by decide⟩
theorem dtLookup (x : Half) : Statement (.dtLookup x) := ⟨opWord_opcField _ _ _, opWord_unread_b _ _⟩
theorem scanReset : Statement .scanReset := ⟨by decide, by decide⟩
theorem cntClear : Statement .cntClear := ⟨by decide, by decide⟩

end Sys2Proof.Laws.OpcodeField
end

