-- ==== Sys2Proof/Tests/Slice0.lean ====
section
/-! SUPPORT. Tests: what WellFormed refuses, words written out from 30_encoding.md R140 and R143, one step of each operation with
the values its rule's example gives, and for each obligation with hypotheses a state and operands that meet them. -/

namespace Sys2Proof.Tests

open Sys2Proof Sys2Proof.Machine

/-! ## WellFormed -/

theorem test_wf_crcTxbody_refused : (Instr.crcTxbody 65536).wf = false := by decide
theorem test_wf_txSend_refused : (Instr.txSend 65536).wf = false := by decide
theorem test_wf_txIssue_refused : (Instr.txIssue 65536).wf = false := by decide
theorem test_wf_largest_count : (Instr.txIssue 65535).wf = true := by decide
theorem test_access_width_refused : accessOk 0x008#12 2 = false := by decide
theorem test_access_alignment_refused : accessOk 0x002#12 4 = false := by decide
theorem test_access_last_word : accessOk 0xFFC#12 4 = true := by decide

/-! ## Decoding. Each word is {H, B, OPC} with unread fields not 0; the left side says its opcode byte, so that each is also the
witness of the encoding clause of the operation's result statement. -/

/-- The word's opcode byte, and what it decodes to. -/
def reads (w : Word) (opc : Byte) (i : Instr) : Prop := w.extractLsb' 0 8 = opc ∧ decode w = .ok i

theorem test_decode_nop : reads 0x12345600#32 0x00#8 .nop := ⟨by decide, by decide⟩
theorem test_decode_crcInit : reads 0x12345601#32 0x01#8 .crcInit := ⟨by decide, by decide⟩
theorem test_decode_crcByte : reads 0x12343102#32 0x02#8 (.crcByte 0x31#8) := ⟨by decide, by decide⟩
theorem test_decode_crcHbuf : reads 0x12345603#32 0x03#8 .crcHbuf := ⟨by decide, by decide⟩
theorem test_decode_crcTxbody : reads 0x01005604#32 0x04#8 (.crcTxbody 256) := ⟨by decide, by decide⟩
theorem test_decode_hdrPack : reads 0x12345610#32 0x10#8 .hdrPack := ⟨by decide, by decide⟩
theorem test_decode_hdrUnpack : reads 0x12345611#32 0x11#8 .hdrUnpack := ⟨by decide, by decide⟩
theorem test_decode_txSend : reads 0xFFFF5620#32 0x20#8 (.txSend 65535) := ⟨by decide, by decide⟩
theorem test_decode_txIssue : reads 0x00085621#32 0x21#8 (.txIssue 8) := ⟨by decide, by decide⟩
theorem test_decode_slotArm : reads 0x00265630#32 0x30#8 (.slotArm 38#16) := ⟨by decide, by decide⟩
theorem test_decode_slotTake : reads 0x12345631#32 0x31#8 .slotTake := ⟨by decide, by decide⟩
theorem test_decode_slotCancel : reads 0x12345632#32 0x32#8 .slotCancel := ⟨by decide, by decide⟩
theorem test_decode_slotFlush : reads 0x12345633#32 0x33#8 .slotFlush := ⟨by decide, by decide⟩
theorem test_decode_tmPop : reads 0x12345640#32 0x40#8 .tmPop := ⟨by decide, by decide⟩
theorem test_decode_dtLookup : reads 0x00265650#32 0x50#8 (.dtLookup 38#16) := ⟨by decide, by decide⟩
theorem test_decode_scanReset : reads 0x12345660#32 0x60#8 .scanReset := ⟨by decide, by decide⟩
theorem test_decode_cntClear : reads 0x12345661#32 0x61#8 .cntClear := ⟨by decide, by decide⟩

theorem test_decode_illegal_edges :
    ∀ opc ∈ [0x05#8, 0x0F#8, 0x12#8, 0x1F#8, 0x22#8, 0x2F#8, 0x34#8, 0x3F#8, 0x41#8, 0x4F#8, 0x51#8, 0x5F#8, 0x62#8, 0xFF#8],
      decode (opWord 0 0 opc) = .error (.illegalOpcode opc) := by decide
theorem test_decode_short : decodeBytes [0x60#8, 0#8, 0#8] = .error (.truncated 3) := by decide
theorem test_decode_host_order : decodeBytes [0x02#8, 0x31#8, 0#8, 0#8, 0xEE#8] = .ok (.crcByte 0x31#8, [0xEE#8]) := by decide
theorem test_encode_txIssue : encode (.txIssue 8) = 0x00080021#32 := by decide
theorem test_table_word : decodeTableWord 8 0x61 = some .cntClear := by decide

/-! ## One step of each operation, from the example in its rule -/

/-- What is seen of the next state. -/
def seen {α : Type} (f : State → α) : Out → Option α
  | .next t => some (f t)
  | .fault _ => none
  | .refused _ => none

/-- RESULT after the operation. -/
def resultOf (o : Out) : Option Word := seen (fun t => t.result) o

/-- The first two words of TX_BODY are 6 and 0 (40_crc.md R186). -/
def unlogBody : Memory := [(0, 6#8)]

/-- The unlog-all command header's HF words (46_transmit.md R351). -/
def unlogHf : HdrWords := { f0 := 0xC0000026#32, f1 := 8#32, f2 := 0, f3 := 0, f4 := 0, f5 := 0 }

/-- V-HDR-2's HF words (41_header_codec.md R203). -/
def hf2 : HdrWords :=
  { f0 := 0xA55A1234#32, f1 := 0xBEEF0102#32, f2 := 0x07D02211#32, f3 := 0xFFFFFC18#32, f4 := 0x80000001#32,
    f5 := 0x0F0ECAFE#32 }

/-- V-HDR-2's bytes (41_header_codec.md R203). -/
def hdr2 : List Byte :=
  [0xAA#8, 0x44#8, 0x12#8, 0x1C#8, 0x34#8, 0x12#8, 0x5A#8, 0xA5#8, 0x02#8, 0x01#8, 0xEF#8, 0xBE#8, 0x11#8, 0x22#8] ++
  [0xD0#8, 0x07#8, 0x18#8, 0xFC#8, 0xFF#8, 0xFF#8, 0x01#8, 0x00#8, 0x00#8, 0x80#8, 0xFE#8, 0xCA#8, 0x0E#8, 0x0F#8]

/-- A record with this sequence number. -/
def record (n : Word) : TmEntry := { seq := n, time := 1143#64, body := [], crc := 0 }

/-- 47_control.md R370. -/
theorem test_nop : resultOf (exec .nop { State.reset with result := 5#32 }) = some 0#32 := by decide
/-- 40_crc.md R183. -/
theorem test_crcInit :
    seen (fun t => (t.crcAcc, t.result)) (exec .crcInit { State.reset with crcAcc := 0x2DFD2D88#32 }) =
      some (0#32, 0x00000100#32) := by decide
/-- 40_crc.md R184. -/
theorem test_crcByte : seen (fun t => t.crcAcc) (exec (.crcByte 0x31#8) State.reset) = some 0x51DE003A#32 := by decide
/-- 40_crc.md R184. -/
theorem test_crcByte_ones :
    seen (fun t => t.crcAcc) (exec (.crcByte 0#8) { State.reset with crcAcc := 0xFFFFFFFF#32 }) = some 0x2DFD1072#32 := by
  decide
set_option maxRecDepth 20000 in
/-- 40_crc.md R185. -/
theorem test_crcHbuf :
    seen (fun t => t.crcAcc)
      (exec .crcHbuf { State.reset with
        hbuf := [(0, 0xAA#8), (1, 0x44#8), (2, 0x12#8), (3, 0x1C#8), (4, 0x26#8), (7, 0xC0#8), (8, 0x08#8)] }) =
      some 0x04BCBB5D#32 := by decide
set_option maxRecDepth 20000 in
/-- 40_crc.md R186. -/
theorem test_crcTxbody :
    seen (fun t => t.crcAcc) (exec (.crcTxbody 8) { State.reset with crcAcc := 0x04BCBB5D#32, txBody := unlogBody }) =
      some 0xB2B68104#32 := by decide
/-- 40_crc.md R186. -/
theorem test_crcTxbody_range : resultOf (exec (.crcTxbody 257) State.reset) = some 0x00000405#32 := by decide
/-- 41_header_codec.md R203. -/
theorem test_hdrPack :
    seen (fun t => Memory.bytes t.hbuf 0 28) (exec .hdrPack { State.reset with hf := hf2 }) = some hdr2 := by decide
/-- 41_header_codec.md R204. -/
theorem test_hdrUnpack :
    seen (fun t => (t.hf, t.result)) (exec .hdrUnpack { State.reset with hbuf := Memory.writeBytes [] 0 hdr2 }) =
      some (hf2, 0x00001100#32) := by decide
/-- 41_header_codec.md R204: byte 3 = 0x1D. -/
theorem test_hdrUnpack_framing :
    seen (fun t => (t.hf, t.result, t.cnt.framing))
      (exec .hdrUnpack { State.reset with hf := hf2, hbuf := [(0, 0xAA#8), (1, 0x44#8), (2, 0x12#8), (3, 0x1D#8)] }) =
      some (hf2, 0x00001108#32, 0#32) := by decide
set_option maxRecDepth 20000 in
/-- 46_transmit.md R350. -/
theorem test_txSend :
    seen (fun t => (t.result, Memory.bytes t.tx.buf 28 5)) (exec (.txSend 0) State.reset) =
      some (0x00202000#32, [0x97#8, 0x11#8, 0xDE#8, 0x11#8, 0#8]) := by decide
/-- 46_transmit.md R350: BUSY is checked first. -/
theorem test_txSend_busy :
    resultOf (exec (.txSend 257) { State.reset with tx := { buf := [], len := 32, pos := 31 } }) = some 0x00002001#32 := by
  decide
set_option maxRecDepth 20000 in
/-- 46_transmit.md R351. -/
theorem test_txIssue :
    seen (fun t => (t.result, t.pending, t.slotExpect, Memory.bytes t.tx.buf 36 4))
      (exec (.txIssue 8) { State.reset with hf := unlogHf, txBody := unlogBody }) =
      some (0x00282100#32, true, 38#32, [0x04#8, 0x81#8, 0xB6#8, 0xB2#8]) := by decide
/-- 46_transmit.md R351. -/
theorem test_txIssue_busy : resultOf (exec (.txIssue 8) { State.reset with pending := true }) = some 0x00002101#32 := by decide
/-- 44_correlator.md R310. -/
theorem test_slotArm :
    seen (fun t => (t.pending, t.slotExpect, t.result)) (exec (.slotArm 38#16) State.reset) =
      some (true, 0x00000026#32, 0x00003000#32) := by decide
/-- 44_correlator.md R310. -/
theorem test_slotArm_busy :
    seen (fun t => (t.slotExpect, t.result))
      (exec (.slotArm 4#16) { State.reset with pending := true, slotExpect := 38#32 }) = some (38#32, 0x00003001#32) := by
  decide
/-- 44_correlator.md R311. -/
theorem test_slotTake :
    seen (fun t => (t.result, t.slotValid, t.pending))
      (exec .slotTake { State.reset with
        slotValid := true, pending := true, slotExpect := 38#32, slotTag := 0x00800026#32, slotResp := 1#32 }) =
      some (0x00263100#32, false, false) := by decide
/-- 44_correlator.md R311. -/
theorem test_slotTake_mismatch :
    seen (fun t => (t.result, t.sticky))
      (exec .slotTake { State.reset with
        slotValid := true, pending := true, slotExpect := 38#32, slotTag := 0x00800102#32, slotResp := 1#32 }) =
      some (0x01023103#32, 0x00010000#32) := by decide
/-- 44_correlator.md R312. -/
theorem test_slotCancel :
    seen (fun t => (t.pending, t.slotExpect, t.result))
      (exec .slotCancel { State.reset with pending := true, slotExpect := 38#32 }) =
      some (false, 38#32, 0x00003200#32) := by decide
/-- 44_correlator.md R313. -/
theorem test_slotFlush :
    seen (fun t => (t.slotValid, t.pending, t.result))
      (exec .slotFlush { State.reset with slotValid := true, pending := true }) = some (false, true, 0x00003300#32) := by
  decide
/-- 45_telemetry.md R335. -/
theorem test_tmPop :
    seen (fun t => (t.result, readReg .tmSeq t)) (exec .tmPop { State.reset with tmFifo := [record 1, record 2] }) =
      some (0x00014000#32, 2#32) := by decide
/-- 45_telemetry.md R335. -/
theorem test_tmPop_empty : resultOf (exec .tmPop State.reset) = some 0x00004002#32 := by decide
/-- 43_dispatcher.md R280. -/
theorem test_dtLookup : resultOf (exec (.dtLookup 38#16) State.reset) = some 0x00265000#32 := by decide
/-- 43_dispatcher.md R280. -/
theorem test_dtLookup_notFound : resultOf (exec (.dtLookup 99#16) State.reset) = some 0x00005009#32 := by decide
/-- 47_control.md R371: the state after the bytes AA 44 12 1C 26. -/
theorem test_scanReset :
    readReg .scan (rxBytes [0xAA#8, 0x44#8, 0x12#8, 0x1C#8, 0x26#8] State.reset) = 0x00000503#32 ∧
    seen (fun t => (readReg .scan t, t.result))
      (exec .scanReset (rxBytes [0xAA#8, 0x44#8, 0x12#8, 0x1C#8, 0x26#8] State.reset)) = some (0#32, 0x00006000#32) :=
  ⟨by decide, by decide⟩
/-- 47_control.md R372. -/
theorem test_cntClear :
    seen (fun t => (readReg (.cnt 1) t, t.result))
      (exec .cntClear { State.reset with cnt := { Counters.zero with desync := 38#32 } }) =
      some (0#32, 0x00006100#32) := by decide

/-! ## The agents -/

/-- 30_encoding.md R144: an illegal word is a next state. -/
theorem test_illegal :
    seen (fun t => (t.result, t.sticky)) (hostWrite 0x014#12 4 0xFFFFFF05#32 State.reset) =
      some (0x00000504#32, 0x00010000#32) := by decide
/-- 42_frame_scanner.md R226: `AA AA 44 12` with RESYNC_FIX = 0 loses the frame, three DESYNC events. -/
theorem test_resync_off :
    (rxBytes [0xAA#8, 0xAA#8, 0x44#8, 0x12#8] State.reset).cnt.desync = 3#32 := by decide
/-- 42_frame_scanner.md R226: with RESYNC_FIX = 1 it is found. -/
theorem test_resync_on :
    readReg .scan (rxBytes [0xAA#8, 0xAA#8, 0x44#8, 0x12#8] { State.reset with ctrl := 8#32 }) = 0x00000303#32 := by decide
/-- 44_correlator.md R304: the deposit of V-FRM-2's order. -/
theorem test_deposit :
    let t := deposit 0xEA6CB0FC#32 { State.reset with
      rx := { Rx.cleared with
        msgId := 38#16, msgType := 0x80#8, textLen := 2, resp := [(0, 1#8)], text := [(0, 0x4F#8), (1, 0x4B#8)] } }
    (t.slotTag, t.slotLen, t.slotResp, readReg (.slotText ⟨0, by decide⟩) t) = (0x00800026#32, 2#32, 1#32, 0x00004B4F#32) := by decide
/-- 45_telemetry.md R331: the second record. -/
theorem test_tmAccept :
    let t := tmAccept 0#32 { State.reset with
      tmFifo := [record 1], tmNextSeq := 2#32, env := { Env.start with timeIn := 1287#64 } }
    (t.tmFifo.map (fun e => (e.seq, e.time)), t.tmNextSeq) = ([(1#32, 1143#64), (2#32, 1287#64)], 3#32) := by decide
/-- 47_control.md R374: the bits of CTRL and DTk that exist. -/
theorem test_write_masks :
    seen (fun t => t.ctrl) (hostWrite 0x004#12 4 0xFFFFFFFF#32 State.reset) = some 0x0000000F#32 ∧
    seen (fun t => readReg (.dt 7) t) (hostWrite 0x0BC#12 4 0xFFFFFFFF#32 State.reset) = some 0x8003FFFF#32 :=
  ⟨by decide, by decide⟩
/-- 20_memory.md R106. -/
theorem test_access_stops :
    hostRead 0x008#12 2 State.reset = .refused (.notWholeWord 2) ∧
    hostWrite 0x00A#12 4 0#32 State.reset = .refused (.misaligned 0x00A#12) := ⟨rfl, rfl⟩
/-- 20_memory.md R103: one TXE step. -/
theorem test_txe :
    (txeStep { State.reset with tx := { buf := [(0, 0xAA#8)], len := 32, pos := 0 } }).env.txWire = [0xAA#8] := by decide
/-- The next operation word runs as the very next step. -/
theorem test_fetch : seen (fun t => t.crcAcc) (step (State.reset.withFetchWord 32 0x00003102)) = some 0x51DE003A#32 := by
  decide

/-! ## Witnesses: for each obligation with hypotheses, a state and operands that meet them. The encoding clauses of the result
statements have theirs above (test_decode_…). -/

theorem witness_DecodeEncodeAgree : (Instr.crcTxbody 65535).wf = true := by decide
theorem witness_UnreadFieldsIgnored :
    (Instr.txSend 8).wf = true ∧ (0x0008AB20#32) &&& readMask (.txSend 8) = encode (.txSend 8) := ⟨by decide, by decide⟩
/-- The listed ranges' ends are tested above (test_decode_illegal_edges). -/
theorem witness_IllegalOpcodes :
    let n := ((0xABCDEF62#32 : Word).extractLsb' 0 8).toNat
    0x62 ≤ n ∧ n ≤ 0xFF := ⟨by decide, by decide⟩
theorem witness_StepRunsDecodedOperation :
    let s := { State.reset with env := { Env.start with agenda := [.hostWrite 0x014#12 4 0x00080021#32, .rxe] } }
    decode 0x00080021#32 = .ok (.txIssue 8) ∧ (Instr.txIssue 8).wf = true ∧
    s.env.agenda = .hostWrite 0x014#12 4 0x00080021#32 :: [.rxe] ∧ State.reset.env.agenda = [] := by decide
theorem witness_CrcLaws : [1#8, 2#8].length = [3#8, 4#8].length := by decide
theorem witness_HeaderRoundTrip :
    hdr2.length = 28 ∧ unpack (Memory.writeBytes [] 0 hdr2) 0x1C1244AA#32 = some hf2 := ⟨by decide, by decide⟩
theorem witness_TmPopResult :
    State.reset.tmFifo = [] ∧ { State.reset with tmFifo := [record 1] }.tmFifo = record 1 :: [] := ⟨rfl, rfl⟩
theorem witness_DtLookupResult :
    dtLookup State.reset 99#16 = none ∧ dtLookup State.reset 38#16 = some (6, .dual) ∧
    dtLookup State.reset 1#16 = some (0, .order) ∧ dtLookup State.reset 241#16 = some (7, .telem) :=
  ⟨by decide, by decide, by decide, by decide⟩
/-- A second frame over the stale bytes of a first, at both ends of n. -/
theorem witness_SentFrameOnWire :
    let s := { State.reset with tx := { buf := [(0, 1#8), (287, 2#8)], len := 288, pos := 288 } }
    Memory.wf s.tx.buf = true ∧ s.tx.len ≤ s.tx.pos ∧ 0 ≤ 256 ∧ 256 ≤ 256 := by decide

/-- A frame being sent. -/
def sending : State := { State.reset with tx := { buf := [(0, 0xAA#8)], len := 32, pos := 31 } }

theorem witness_SendingFrameIsSnapshot :
    txBusy sending = true ∧ (Turn.hostWrite 0x010#12 4 7#32 ≠ .txe) ∧ (Turn.hostWrite 0x010#12 4 7#32 ≠ .reset) ∧
    runTurn (.hostWrite 0x010#12 4 7#32) sending = .next { sending with sync := 7#32 } :=
  ⟨by decide, by decide, by decide, rfl⟩
/-- The slot full and empty; a text of 256 bytes' length and one byte more. -/
theorem witness_DepositOrder :
    { State.reset with slotValid := true }.slotValid = true ∧ State.reset.slotValid = false ∧
    Memory.wf { Rx.cleared with textLen := 256, text := [(255, 1#8)] }.text = true ∧
    Memory.wf { Rx.cleared with textLen := 257, text := [(255, 1#8)] }.text = true :=
  ⟨rfl, rfl, by decide, by decide⟩
theorem witness_OneOutstandingCommand :
    { State.reset with pending := true }.pending = true ∧ (Turn.txe ≠ .reset) ∧
    runTurn .txe { State.reset with pending := true } = .next { State.reset with pending := true } :=
  ⟨rfl, by decide, rfl⟩
theorem witness_HeldOrderIsStable : { State.reset with slotValid := true }.slotValid = true := rfl
/-- An empty FIFO, the last free place and a full FIFO. -/
theorem witness_TelemetryAccept :
    State.reset.tmFifo.length < 4 ∧ [record 1, record 2, record 3].length < 4 ∧
    4 ≤ [record 1, record 2, record 3, record 4].length ∧ Memory.ok 112 { Rx.cleared with tmbody := [(111, 1#8)] }.tmbody = true :=
  ⟨by decide, by decide, by decide, by decide⟩
theorem witness_HeadRecordIsStable : { State.reset with tmFifo := [record 1] }.tmFifo ≠ [] := by decide

/-- Two records held, the next turn TXE's. -/
def twoRecords : State :=
  { State.reset with
    tmFifo := [record 0xFFFFFFFF#32, record 0#32], tmNextSeq := 1#32, env := { Env.start with agenda := [.txe] } }

/-- Two records across the wrap of the sequence number. -/
theorem witness_SequenceNumbersConsecutive :
    SeqConsecutive twoRecords ∧ step twoRecords = .next { twoRecords with env := Env.start } := by
  refine ⟨fun k h => ?_, rfl⟩
  match k, h with
  | 0, _ => rfl
  | 1, _ => rfl

/-- A state at the end of a header with this identifier, type and body length. -/
def atClassify (c : Word) (msgId : Half) (msgType : Byte) (l : Half) : State :=
  { State.reset with ctrl := c, rx := { Rx.cleared with state := .hdr, hcnt := 28, msgId := msgId, msgType := msgType, bodyLen := l } }

/-- The class `classify` selects there. -/
def clsAt (s : State) : RxClass := classOf s s.rx.msgId s.rx.msgType

/-- Each clause of the table, at L = 4 and 3, 112 and 113, and of the selection. -/
theorem witness_ConsumptionTable :
    (clsAt (atClassify 0 4 0 4) = .order ∧ 4 ≤ (atClassify 0 4 0 4).rx.bodyLen.toNat) ∧
    (clsAt (atClassify 0 4 0 3) = .order ∧ (atClassify 0 4 0 3).rx.bodyLen.toNat < 4 ∧ alignOn (atClassify 0 4 0 3) = false) ∧
    (clsAt (atClassify 2 4 0 3) = .order ∧ (atClassify 2 4 0 3).rx.bodyLen.toNat < 4 ∧ alignOn (atClassify 2 4 0 3) = true) ∧
    (clsAt (atClassify 0 241 0 112) = .telem ∧ (atClassify 0 241 0 112).rx.bodyLen.toNat = 112) ∧
    (clsAt (atClassify 0 241 0 113) = .telem ∧ (atClassify 0 241 0 113).rx.bodyLen.toNat ≠ 112) ∧
    clsAt (atClassify 0 38 0 8) = .info ∧
    (clsAt (atClassify 2 99 0 8) = .noClass ∧ alignOn (atClassify 2 99 0 8) = true) ∧
    (clsAt (atClassify 0 99 0 8) = .noClass ∧ alignOn (atClassify 0 99 0 8) = false) ∧
    (dtLookup State.reset 99#16 = none ∧ dtLookup State.reset 4#16 = some (1, .order) ∧
      dtLookup State.reset 241#16 = some (7, .telem) ∧ dtLookup State.reset 38#16 = some (6, .dual) ∧
      (0x80#8 : Byte).getLsbD 7 = true ∧ (0x7F#8 : Byte).getLsbD 7 = false) :=
  ⟨by decide, by decide, by decide, by decide, by decide, by decide, by decide, by decide, by decide⟩
theorem witness_OperationFrame :
    exec .slotCancel State.reset = .next { State.reset with pending := false, result := 0x00003200#32 } ∧
    mayChange .slotCancel .sync = false := ⟨rfl, rfl⟩

/-- A header in progress with `n` bytes taken. -/
def inHeader (n : Nat) (h : Memory) : State :=
  { State.reset with rx := { Rx.cleared with state := .hdr, hcnt := n, hbuf := h } }

/-- The sync bytes of the reset SYNC. -/
def sync4 : Memory := [(0, 0xAA#8), (1, 0x44#8), (2, 0x12#8), (3, 0x1C#8)]

/-- Receiving the body of an order with 300 text bytes, `p` bytes taken. -/
def longOrder (p : Nat) : State :=
  { State.reset with
    rx := { Rx.cleared with
      state := .body, hcnt := 28, cls := .order, bodyLen := 304#16, consume := 308, textLen := 300, msgId := 4#16, pos := p } }

/-- Each state; in BODY at the last stored and the first unstored text byte, the last body byte and the last trailer byte. -/
theorem witness_ReceiveByteSteps :
    State.reset.rx.state = .hunt ∧ (rxBytes [0xAA#8] State.reset).rx.state = .sync2 ∧
    (rxBytes [0xAA#8, 0x44#8] State.reset).rx.state = .sync3 ∧
    (∀ p ∈ [259, 260, 303, 307],
      (longOrder p).rx.state = .body ∧ 4 ≤ (longOrder p).rx.consume ∧
      ((longOrder p).rx.cls = .order ∨ (longOrder p).rx.cls = .telem)) ∧
    { Rx.cleared with state := .discard, consume := 8, pos := 7 }.state = .discard :=
  ⟨by decide, by decide, by decide, by decide, rfl⟩
/-- 43_dispatcher.md R270: text byte 256 is the first that enters the CRC and is not stored. -/
theorem test_text_max :
    (rxByte 0x41#8 (longOrder 259)).rx.text = [(255, 0x41#8)] ∧ (rxByte 0x41#8 (longOrder 260)).rx.text = [] ∧
    (rxByte 0x41#8 (longOrder 260)).rx.crc = crcStep 0#32 0x41#8 := ⟨by decide, by decide, by decide⟩
/-- The 27th byte; the 28th of a header with a wrong length byte, and of a right one. -/
theorem witness_HeaderCompletion :
    ((inHeader 26 sync4).rx.state = .hdr ∧ (inHeader 26 sync4).rx.hcnt + 1 ≠ 28) ∧
    ((inHeader 27 []).rx.hcnt + 1 = 28 ∧ Memory.word (Memory.write (inHeader 27 []).rx.hbuf 27 1#8) 0 ≠ (inHeader 27 []).sync) ∧
    ((inHeader 27 sync4).rx.hcnt + 1 = 28 ∧
      Memory.word (Memory.write (inHeader 27 sync4).rx.hbuf 27 1#8) 0 = (inHeader 27 sync4).sync) :=
  ⟨by decide, by decide, by decide⟩
theorem witness_ReceiveEnable :
    (State.reset.rx.state = .hunt ∧ State.reset.ctrl.getLsbD 0 = false) ∧ State.reset.env.rxStream = [] ∧
    ({ Env.start with rxStream := [1#8, 2#8] }.rxStream = 1#8 :: [2#8] ∧ (inHeader 5 sync4).rx.state ≠ .hunt) ∧
    (1#32 : Word).getLsbD 0 = true := ⟨by decide, by decide, by decide, by decide⟩
theorem witness_JunkIsSkipped : State.reset.rx.state = .hunt ∧ ∀ b ∈ [0x44#8, 0x12#8, 0#8], b ≠ sync0 State.reset :=
  ⟨by decide, by decide⟩
/-- Junk with two SYNC0 bytes, the second followed by SYNC1. -/
theorem witness_ResyncKeepsFrame :
    let s := { State.reset with ctrl := 8#32 }
    s.rx = Rx.cleared ∧ s.ctrl.getLsbD 3 = true ∧ sync0 s ≠ sync1 s ∧ sync0 s ≠ sync2 s ∧ sync1 s ≠ sync2 s ∧
    ¬[sync0 s, sync1 s, sync2 s] <:+: [0xAA#8, 0xAA#8, 0x44#8] :=
  ⟨rfl, by decide, by decide, by decide, by decide, by decide⟩
/-- A frame of 33 bytes with an unknown identifier and an arbitrary trailer. -/
theorem witness_AlignmentLaw :
    let s := { State.reset with ctrl := 2#32 }
    let bs := [0xAA#8, 0x44#8, 0x12#8, 0x1C#8, 0x63#8, 0#8, 0#8, 0#8, 1#8, 0#8] ++ List.replicate 23 0x5A#8
    s.rx = Rx.cleared ∧ alignOn s = true ∧ bs.take 4 = bytesLE32 s.sync ∧
    bs.length = 32 + (le16 (bs.getD 8 0#8) (bs.getD 9 0#8)).toNat := ⟨rfl, by decide, by decide, by decide⟩
/-- The acknowledgement of unlog-all (ID 38, type 0x80) with the text OK, and one with 256 bytes of text. -/
theorem witness_OrderFrameReachesSlot :
    let f : HdrWords := { HdrWords.zero with f0 := 0xC0800026#32 }
    State.reset.rx = Rx.cleared ∧ State.reset.slotValid = false ∧ [0x4F#8, 0x4B#8].length ≤ 256 ∧
    (List.replicate 256 0x41#8).length ≤ 256 ∧ classOf State.reset f.msgId f.msgType = .order :=
  ⟨rfl, rfl, by decide, List.length_replicate.le, by decide⟩
theorem witness_TelemetryFrameBecomesRecord :
    let f : HdrWords := { HdrWords.zero with f0 := 0x000000F1#32 }
    State.reset.rx = Rx.cleared ∧ State.reset.tmFifo.length < 4 ∧ (List.replicate 112 0x41#8).length = 112 ∧
    classOf State.reset f.msgId f.msgType = .telem := ⟨rfl, by decide, by simp, by decide⟩

/-- Inside a skipped span of 8 bytes, 6 taken. -/
def skipping : State :=
  { State.reset with
    rx := { Rx.cleared with state := .discard, hcnt := 28, cls := .skip, bodyLen := 4#16, consume := 8, pos := 6, msgId := 99#16 } }

/-- Inside the body of an order with an empty text, no byte taken. -/
def inOrder : State :=
  { State.reset with
    rx := { Rx.cleared with state := .body, hcnt := 28, cls := .order, bodyLen := 4#16, consume := 8, msgId := 4#16 } }

/-- One sync byte taken, RX_EN = 0. -/
def inSync2 : State := { State.reset with rx := { Rx.cleared with state := .sync2, hcnt := 1, hbuf := [(0, 0xAA#8)] } }

/-- In a body and a skipped span, with the last byte of it and with one byte fewer; in a header; after one sync byte. -/
theorem witness_FrameEndsAfterScanRem :
    (Inv skipping ∧ skipping.rx.state = .discard ∧ [1#8, 2#8].length ≤ skipping.rx.consume - skipping.rx.pos) ∧
    (Inv inOrder ∧ inOrder.rx.state = .body ∧ (List.replicate 7 0xAA#8).length ≤ inOrder.rx.consume - inOrder.rx.pos) ∧
    (Inv (inHeader 27 sync4) ∧ (inHeader 27 sync4).rx.state = .hdr ∧
      28 - (inHeader 27 sync4).rx.hcnt + 65539 ≤ (List.replicate 65540 0xAA#8).length) ∧
    (Inv inSync2 ∧ inSync2.rx.state = .sync2 ∧ inSync2.ctrl.getLsbD 3 = false ∧ 2 ≤ [0x44#8, 0xAA#8].length ∧
      2 + 25 + 65539 ≤ (List.replicate 65566 0x44#8).length) :=
  ⟨⟨⟨by decide, by decide, by decide, by decide, by decide⟩, rfl, by decide⟩,
    ⟨⟨by decide, by decide, by decide, by decide, by decide⟩, rfl, by decide⟩,
    ⟨⟨by decide, by decide, by decide, by decide, by decide⟩, rfl, by rw [List.length_replicate]; decide⟩,
    ⟨⟨by decide, by decide, by decide, by decide, by decide⟩, rfl, by decide, by decide,
      by rw [List.length_replicate]⟩⟩

/-- 42_frame_scanner.md R221, R224, R225, 92_eei_decisions.md D24: with RX_EN = 0 in SYNC2, RXE takes the bytes `44 12` that
complete the sync marker and is in HDR, not in HUNT (log entry 16). -/
theorem test_shutdown_in_sync2 :
    let s := { inSync2 with env := { Env.start with rxStream := [0x44#8, 0x12#8] } }
    rxEn s = false ∧ readReg .scan (rxeSteps 2 s) = 0x00000303#32 ∧ (rxeSteps 2 s).env.rxStream = [] := by decide
theorem witness_SyncStatesStopWithinTwoBytes :
    Inv inSync2 ∧ inSync2.ctrl.getLsbD 0 = false ∧ (inSync2.rx.state = .sync2 ∨ inSync2.rx.state = .sync3) :=
  ⟨⟨by decide, by decide, by decide, by decide, by decide⟩, by decide, by decide⟩
theorem witness_AccessesRefused :
    2 ≠ 4 ∧ (0x002#12 : Offset).toNat % 4 ≠ 0 ∧ (0xFFF#12 : Offset).toNat % 4 ≠ 0 ∧ (0xFFC#12 : Offset).toNat % 4 = 0 := by decide
/-- The ends of the reserved ranges; an empty FIFO and a full one; a frame's last byte, and the longest frame in either engine. -/
theorem witness_ReadsHaveNoSideEffect :
    (0x200#12 : Offset).toNat % 4 = 0 ∧
    (∀ off ∈ ([0x0EC#12, 0x0FC#12, 0x270#12, 0x3FC#12, 0x500#12, 0xFFC#12] : List Offset),
      off.toNat % 4 = 0 ∧
      (0x0EC ≤ off.toNat ∧ off.toNat ≤ 0x0FC ∨ 0x270 ≤ off.toNat ∧ off.toNat ≤ 0x3FC ∨ 0x500 ≤ off.toNat)) ∧
    State.reset.tmFifo = [] ∧ [record 1, record 2, record 3, record 4] = record 1 :: [record 2, record 3, record 4] ∧
    [record 1, record 2, record 3, record 4].length ≤ 4 ∧ Rx.cleared.hcnt ≤ 28 ∧ (longOrder 307).rx.hcnt ≤ 28 ∧
    (longOrder 307).rx.pos ≤ (longOrder 307).rx.consume ∧ 65538 ≤ 65539 ∧ sending.tx.len ≤ 288 ∧ 288 ≤ 288 ∧
    sending.tx.pos ≤ sending.tx.len :=
  ⟨by decide, by decide, rfl, rfl, by decide, by decide, by decide, by decide, by decide, by decide, by decide, by decide⟩
theorem witness_ResetValues : (0x098#12 : Offset).toNat % 4 = 0 ∧ (0xFFC#12 : Offset).toNat % 4 = 0 := by decide
/-- 10_state.md R33: the offsets of a few registers, and what a read there returns. -/
theorem test_map :
    regAt 0x0BC#12 = .dt 7 ∧ readReg (regAt 0x0E0#12) (longOrder 307) = 0x00003C04#32 ∧
    readReg (regAt 0x0E4#12) (longOrder 307) = 1#32 ∧ readReg (regAt 0x0E8#12) sending = 0x001F0020#32 :=
  ⟨by decide, by decide, by decide, by decide⟩
theorem witness_WriteReachesItsRegisterOnly :
    Inv State.reset ∧ (0x4FC#12 : Offset).toNat % 4 = 0 ∧ (0x4FC#12 : Offset) ≠ 0x014#12 :=
  ⟨⟨by decide, by decide, by decide, by decide, by decide⟩, by decide, by decide⟩
/-- A host write to CTRL, and a receive step inside a skipped span. -/
theorem witness_InvariantKeptByEveryStep :
    let s := { State.reset with env := { Env.start with agenda := [.hostWrite 0x004#12 4 0xFFFFFFFF#32] } }
    Inv s ∧ step s = .next { State.reset with ctrl := 0x0000000F#32 } :=
  ⟨⟨by decide, by decide, by decide, by decide, by decide⟩, rfl⟩

end Sys2Proof.Tests
end

section
/-! PROOFS of 10_state.md. The invariant in two parts, the block and the receive engine, and one lemma per shared operation
that says it keeps its part; then the settled statements, each a short use of them. -/

namespace Sys2Proof.Machine

/-! ## Masked words -/

/-- A word below `2 ^ k` has no bit in common with a mask whose low `k` bits are 0. -/
theorem and_eq_zero_of_lt {x m : Word} {k : Nat} (hx : x.toNat < 2 ^ k) (hm : ∀ i < k, m.getLsbD i = false) :
    x &&& m = 0#32 := by
  apply BitVec.eq_of_getLsbD_eq
  intro i _
  by_cases hi : i < k
  · simp [hm i hi]
  · have hbit : x.toNat.testBit i = false :=
      Nat.testBit_lt_two_pow (lt_of_lt_of_le hx (Nat.pow_le_pow_right (by decide) (by omega)))
    simp [BitVec.getLsbD, hbit]

theorem and_mask_and_not (x m : Word) : x &&& m &&& ~~~m = 0#32 := by
  rw [BitVec.and_assoc, BitVec.and_not_self]
  exact BitVec.and_zero

theorem and_right_comm_eq_zero {x m : Word} (h : x &&& m = 0#32) (y : Word) : x &&& y &&& m = 0#32 := by
  rw [BitVec.and_assoc, BitVec.and_comm y m, ← BitVec.and_assoc, h, BitVec.zero_and]

/-- Every event's bit is one of the sticky bits (10_state.md R43). -/
theorem Event.mask_within (e : Event) : e.mask &&& ~~~stickyMask = 0#32 := by
  cases e <;> decide

/-! ## The invariant in two parts -/

/-- The invariant of everything but the receive engine. -/
structure BlockOk (s : State) : Prop where
  ctrl : s.ctrl &&& ~~~ctrlMask = 0#32
  sticky : s.sticky &&& ~~~stickyMask = 0#32
  irqEn : s.irqEn &&& ~~~irqMask = 0#32
  slotExpect : s.slotExpect &&& 0xFFFF0000#32 = 0#32
  slotTag : s.slotTag &&& 0xFF000000#32 = 0#32
  slotLen : s.slotLen &&& 0xFFFF0000#32 = 0#32
  dt : ∀ k : Fin Config.hw.dtEntries, s.dt[k] &&& ~~~dtMask = 0#32
  hbuf : Memory.ok 28 s.hbuf = true
  txBody : Memory.ok Config.hw.txBodyMax s.txBody = true
  txBuf : Memory.ok (32 + Config.hw.txBodyMax) s.tx.buf = true
  slotText : Memory.ok (min s.slotLen.toNat Config.hw.textMax) s.slotText = true
  fifoBodies : ∀ e ∈ s.tmFifo, Memory.ok Config.hw.tmBodyBytes e.body = true
  tx : txOk s.tx
  fifo : fifoOk s

/-- The receive engine's buffers. -/
structure RxBuffersOk (r : Rx) : Prop where
  hbuf : Memory.ok 28 r.hbuf = true
  resp : Memory.ok 4 r.resp = true
  text : Memory.ok Config.hw.textMax r.text = true
  tmbody : Memory.ok Config.hw.tmBodyBytes r.tmbody = true
  rcrc : Memory.ok 4 r.rcrc = true

theorem RxBuffersOk.cleared : RxBuffersOk Rx.cleared := ⟨rfl, rfl, rfl, rfl, rfl⟩

theorem rxOk_cleared : rxOk Rx.cleared := by decide

theorem inv_iff (s : State) : Inv s ↔ BlockOk s ∧ RxBuffersOk s.rx ∧ rxOk s.rx := by
  constructor
  · rintro ⟨⟨hctrl, hsticky, hirq, hexp, htag, hlen, hdt⟩,
      ⟨hhbuf, htxb, htxbuf, htext, hrh, hrr, hrt, hrm, hrc, hfb⟩, htx, hfifo, hrx⟩
    exact ⟨⟨hctrl, hsticky, hirq, hexp, htag, hlen, hdt, hhbuf, htxb, htxbuf, htext, hfb, htx, hfifo⟩,
      ⟨hrh, hrr, hrt, hrm, hrc⟩, hrx⟩
  · rintro ⟨h, hr, hrx⟩
    exact ⟨⟨h.ctrl, h.sticky, h.irqEn, h.slotExpect, h.slotTag, h.slotLen, h.dt⟩,
      ⟨h.hbuf, h.txBody, h.txBuf, h.slotText, hr.hbuf, hr.resp, hr.text, hr.tmbody, hr.rcrc, h.fifoBodies⟩,
      h.tx, h.fifo, hrx⟩

/-! ## The block's part, operation by operation -/

/-- The block's part reads neither the receive engine nor the environment. -/
theorem BlockOk.withRxEnv {s : State} (h : BlockOk s) (r : Rx) (e : Env) : BlockOk { s with rx := r, env := e } :=
  { h with }

theorem BlockOk.event {s : State} (h : BlockOk s) (e : Event) : BlockOk (event e s) :=
  { h with
    sticky := by rw [event_sticky, BitVec.and_or_distrib_right, h.sticky, e.mask_within, BitVec.or_zero] }

theorem BlockOk.clearFrame {s : State} (h : BlockOk s) : BlockOk (clearFrame s) := { h with }

theorem BlockOk.result {s : State} (h : BlockOk s) (o : Byte) (c : Code) (a : Half) : BlockOk (result o c a s) := by
  have hwritten : BlockOk { s with result := resultWord o c a } := { h with }
  by_cases hc : c = .ok
  · subst hc
    exact hwritten
  · rw [result_error o a s hc]
    exact hwritten.event .opErr

theorem BlockOk.takeSync {s : State} (h : BlockOk s) (k : Nat) (st : ScanState) (b : Byte) :
    BlockOk (takeSync k st b s) := { h with }

theorem BlockOk.withTx {s : State} (h : BlockOk s) (f : HdrWords) {hb buf : Memory} {len pos : Nat}
    (hhb : Memory.ok 28 hb = true) (hbuf : Memory.ok (32 + Config.hw.txBodyMax) buf = true)
    (ht : txOk { buf := buf, len := len, pos := pos }) :
    BlockOk { s with hf := f, hbuf := hb, tx := { buf := buf, len := len, pos := pos } } :=
  { h with hbuf := hhb, txBuf := hbuf, tx := ht }

/-- `tx_build` writes a header into HBUF and a frame of at most 288 bytes into tx_buf. -/
theorem BlockOk.txBuild {s : State} (h : BlockOk s) {n : Nat} (hn : n ≤ Config.hw.txBodyMax) : BlockOk (txBuild n s) := by
  rw [Machine.txBuild]
  refine h.withTx _ (Memory.ok_writeBytes h.hbuf ?_) (Memory.ok_writeBytes h.txBuf ?_) ⟨.inr ⟨?_, ?_⟩, ?_⟩
  · rw [pack_length]
  · rw [txFrame_length]; omega
  · exact Nat.le_add_right 32 n
  · exact Nat.add_le_add_left hn 32
  · exact Nat.zero_le _

/-- Bits 31:16 of a 16-bit value are 0. -/
theorem setWidth_and_high (x : Half) : x.setWidth 32 &&& 0xFFFF0000#32 = 0#32 :=
  and_eq_zero_of_lt (k := 16) (by simp [BitVec.toNat_setWidth]; omega) (by decide)

/-- A write keeps the reserved bits of every register at 0 and every byte window inside its size. -/
theorem BlockOk.writeReg {s : State} (h : BlockOk s) (r : Reg) (v : Word) : BlockOk (writeReg r v s) := by
  cases r
  case ctrl => exact { h with ctrl := and_mask_and_not v ctrlMask }
  case status => exact { h with sticky := and_right_comm_eq_zero h.sticky _ }
  case irqEn => exact { h with irqEn := and_mask_and_not v irqMask }
  case hbuf k => exact { h with hbuf := Memory.ok_writeWord h.hbuf (by omega) }
  case txBody j =>
    have hj : j.val < 64 := j.isLt
    exact { h with txBody := Memory.ok_writeWord h.txBody (by simp only [Config.hw]; omega) }
  case dt k =>
    refine { h with dt := fun j => ?_ }
    by_cases hjk : k.val = j.val
    · simpa [Machine.writeReg, Vector.getElem_set, hjk] using and_mask_and_not v dtMask
    · simpa [Machine.writeReg, Vector.getElem_set, hjk] using h.dt j
  all_goals exact { h with }

/-- One more byte emitted leaves TX_POS at most TX_LEN. -/
theorem BlockOk.txeStep {s : State} (h : BlockOk s) : BlockOk (txeStep s) := by
  rcases txeStep_cases s with ⟨hlt, heq⟩ | ⟨_, heq⟩
  · rw [heq]
    exact { h with tx := ⟨h.tx.1, hlt⟩ }
  · rwa [heq]

/-- Bits 31:24 of SLOT_TAG are 0 where it holds a type and an identifier. -/
theorem slotTag_and_high (t : Byte) (m : Half) : (0#8 ++ t ++ m : Word) &&& 0xFF000000#32 = 0#32 := by
  apply BitVec.eq_of_getLsbD_eq
  intro i hi
  rw [BitVec.getLsbD_and, BitVec.getLsbD_append, BitVec.getLsbD_append]
  interval_cases i <;> simp

/-- The slot filled from an order whose text length has 16 bits. -/
theorem BlockOk.heldOrder {s : State} (h : BlockOk s) (rc : Word) (htext : Memory.wf s.rx.text = true)
    (hlen : s.rx.textLen < 2 ^ 16) : BlockOk (heldOrder rc s) := by
  have hnat : (BitVec.ofNat 32 s.rx.textLen).toNat = s.rx.textLen := by
    rw [BitVec.toNat_ofNat, Nat.mod_eq_of_lt (by omega)]
  exact { h with
    slotTag := slotTag_and_high _ _
    slotLen := and_eq_zero_of_lt (k := 16) (by rwa [Machine.heldOrder, hnat]) (by decide)
    slotText := by
      simp only [Machine.heldOrder, hnat]
      exact Memory.ok_truncate _ htext }

theorem BlockOk.deposit {s : State} (h : BlockOk s) (rc : Word) (htext : Memory.wf s.rx.text = true)
    (hlen : s.rx.textLen < 2 ^ 16) : BlockOk (deposit rc s) := by
  rcases deposit_cases rc s with ⟨_, heq⟩ | ⟨_, _, heq⟩ | ⟨_, _, heq⟩ <;> rw [heq]
  · exact h.event _
  · exact (h.heldOrder rc htext hlen).event _
  · exact h.heldOrder rc htext hlen

theorem BlockOk.tmAccept {s : State} (h : BlockOk s) (rc : Word) (hbody : Memory.wf s.rx.tmbody = true) :
    BlockOk (tmAccept rc s) := by
  rcases tmAccept_cases rc s with ⟨_, heq⟩ | ⟨hroom, heq⟩ <;> rw [heq]
  · exact h.event _
  · exact { h with
      fifoBodies := by
        intro e he
        rcases List.mem_append.1 he with he | he
        · exact h.fifoBodies e he
        · rw [List.mem_singleton.1 he]
          exact Memory.ok_truncate _ hbody
      fifo := by simpa [fifoOk] using hroom }

theorem BlockOk.reset : BlockOk State.reset :=
  ⟨by decide, by decide, by decide, by decide, by decide, by decide, by decide, by decide, by decide, by decide,
    by decide, by decide, by decide, by decide⟩

/-! ## Operations of the host -/

/-- Where the outcome is a next state, the invariant holds there. -/
def InvNext (o : Out) : Prop := ∀ t, o = .next t → Inv t

theorem Inv.of_block {s t : State} (h : Inv s) (ht : BlockOk t) (hrx : t.rx = s.rx) : Inv t := by
  obtain ⟨_, hrest⟩ := (inv_iff s).1 h
  exact (inv_iff t).2 ⟨ht, hrx ▸ hrest⟩

theorem Inv.block {s : State} (h : Inv s) : BlockOk s := ((inv_iff s).1 h).1

/-- The invariant says nothing of the values named here. -/
theorem Inv.withFree {s : State} (h : Inv s) (acc : Word) (f : HdrWords) (valid pending : Bool) (c : Counters) :
    Inv { s with crcAcc := acc, hf := f, slotValid := valid, pending := pending, cnt := c } :=
  h.of_block { h.block with } rfl

theorem Inv.withExpect {s : State} (h : Inv s) (x : Half) (p : Bool) :
    Inv { s with slotExpect := x.setWidth 32, pending := p } :=
  h.of_block { h.block with slotExpect := setWidth_and_high x } rfl

theorem Inv.withHbuf {s : State} (h : Inv s) {m : Memory} (hm : Memory.ok 28 m = true) : Inv { s with hbuf := m } :=
  h.of_block { h.block with hbuf := hm } rfl

theorem Inv.withFifo {s : State} (h : Inv s) {q : List TmEntry}
    (hbodies : ∀ e ∈ q, Memory.ok Config.hw.tmBodyBytes e.body = true) (hlen : q.length ≤ Config.hw.tmFifoDepth) :
    Inv { s with tmFifo := q } :=
  h.of_block { h.block with fifoBodies := hbodies, fifo := hlen } rfl

theorem Inv.clearFrame {s : State} (h : BlockOk s) : Inv (clearFrame s) :=
  (inv_iff _).2 ⟨h.clearFrame, RxBuffersOk.cleared, rxOk_cleared⟩

theorem InvNext.finish {s : State} (h : Inv s) (i : Instr) (c : Code) (a : Half) : InvNext (finish i c a s) := by
  intro t ht
  cases ht
  exact h.of_block (h.block.result _ c a) (result_rx _ c a s)

/-- Every operation keeps the invariant, with any operand. -/
theorem InvNext.exec {s : State} (h : Inv s) (i : Instr) : InvNext (exec i s) := by
  have hb := h.block
  cases i with
  | nop => exact .finish h _ _ _
  | crcInit => exact .finish (h.withFree _ _ _ _ _) _ _ _
  | crcByte b => exact .finish (h.withFree _ _ _ _ _) _ _ _
  | crcHbuf => exact .finish (h.withFree _ _ _ _ _) _ _ _
  | crcTxbody n =>
    simp only [Machine.exec, execCrcTxbody]
    split
    · exact .finish (h.withFree _ _ _ _ _) _ _ _
    · exact .finish h _ _ _
  | hdrPack =>
    refine .finish (h.withHbuf (Memory.ok_writeBytes hb.hbuf ?_)) _ _ _
    rw [pack_length]
  | hdrUnpack =>
    simp only [Machine.exec, execHdrUnpack]
    split
    · exact .finish h _ _ _
    · exact .finish (h.withFree _ _ _ _ _) _ _ _
  | txSend n =>
    simp only [Machine.exec, execTxSend, countOk, decide_eq_true_eq]
    split
    · exact .finish h _ _ _
    · split
      · rename_i hn
        exact .finish (h.of_block (hb.txBuild hn) (txBuild_rx n s)) _ _ _
      · exact .finish h _ _ _
  | txIssue n =>
    simp only [Machine.exec, execTxIssue, countOk, decide_eq_true_eq]
    split
    · exact .finish h _ _ _
    · split
      · exact .finish h _ _ _
      · split
        · rename_i hn
          exact .finish ((h.of_block (hb.txBuild hn) (txBuild_rx n s)).withExpect _ true) _ _ _
        · exact .finish h _ _ _
  | slotArm x =>
    simp only [Machine.exec, execSlotArm]
    split
    · exact .finish h _ _ _
    · exact .finish (h.withExpect x true) _ _ _
  | slotTake =>
    simp only [Machine.exec, execSlotTake]
    split
    · exact .finish (h.withFree _ _ _ _ _) _ _ _
    · exact .finish h _ _ _
  | slotCancel => exact .finish (h.withFree _ _ _ _ _) _ _ _
  | slotFlush => exact .finish (h.withFree _ _ _ _ _) _ _ _
  | tmPop =>
    simp only [Machine.exec, execTmPop]
    split
    · exact .finish h _ _ _
    · rename_i e rest heq
      have hbodies : ∀ x ∈ rest, Memory.ok Config.hw.tmBodyBytes x.body = true :=
        fun x hx => hb.fifoBodies x (heq ▸ List.mem_cons_of_mem e hx)
      have hlen : rest.length ≤ Config.hw.tmFifoDepth := by
        have := hb.fifo
        rw [fifoOk, heq, List.length_cons] at this
        omega
      exact .finish (h.withFifo hbodies hlen) _ _ _
  | dtLookup x =>
    simp only [Machine.exec, execDtLookup]
    split <;> exact .finish h _ _ _
  | scanReset => exact .finish (.clearFrame hb) _ _ _
  | cntClear => exact .finish (h.withFree _ _ _ _ _) _ _ _

/-! ## The receive engine: positions of a frame -/

/-- A frame whose first `n` header bytes are in `m`. -/
def Rx.atHeader (st : ScanState) (m : Memory) (n : Nat) : Rx := { Rx.cleared with state := st, hbuf := m, hcnt := n }

/-- What BODY and DISCARD know of the frame being consumed (10_state.md R70, 43_dispatcher.md R262): its class, and how many
bytes it has in all. -/
def frameShape (r : Rx) : Prop :=
  r.state = .body ∧
    (r.cls = .order ∧ r.textLen = r.bodyLen.toNat - 4 ∧ r.consume = r.textLen + 8 ∨
     r.cls = .telem ∧ r.textLen = 0 ∧ r.consume = r.bodyLen.toNat + 4) ∨
  r.state = .discard ∧ r.textLen = 0 ∧
    (r.cls = .skip ∧ r.consume = r.bodyLen.toNat + 4 ∨
     r.cls = .info ∧ (r.consume = 8 ∨ r.consume = r.bodyLen.toNat + 4))

/-- After the header: 28 header bytes, a shape, and bytes of the frame left. -/
structure InFrame (r : Rx) : Prop where
  hcnt : r.hcnt = 28
  left : r.pos < r.consume
  shape : frameShape r

theorem frameShape.state {r : Rx} (h : frameShape r) : r.state = .body ∨ r.state = .discard := by
  rcases h with ⟨hst, _⟩ | ⟨hst, _⟩
  · exact .inl hst
  · exact .inr hst

/-- A frame has at least its trailer and at most 65535 + 4 bytes after the header. -/
theorem frameShape.consume_bounds {r : Rx} (h : frameShape r) : 4 ≤ r.consume ∧ r.consume ≤ 65539 := by
  have hl := r.bodyLen.isLt
  unfold frameShape at h
  omega

theorem frameShape.textLen_lt {r : Rx} (h : frameShape r) : r.textLen < 2 ^ 16 := by
  have hl := r.bodyLen.isLt
  unfold frameShape at h
  omega

theorem InFrame.rxOk {r : Rx} (h : InFrame r) : rxOk r := by
  obtain ⟨hcnt, hleft, ⟨hst, hshape⟩ | ⟨hst, htext, hshape⟩⟩ := h
  · simp [Machine.rxOk, hst, hcnt, hleft, hshape]
  · simp [Machine.rxOk, hst, hcnt, hleft, htext, hshape]

theorem rxOk.inFrame {r : Rx} (h : rxOk r) (hst : r.state = .body ∨ r.state = .discard) : InFrame r := by
  obtain ⟨_, _, _, _, hbody, hdiscard⟩ := h
  rcases hst with hst | hst
  · obtain ⟨hcnt, hleft, hshape⟩ := hbody hst
    exact ⟨hcnt, hleft, .inl ⟨hst, hshape⟩⟩
  · obtain ⟨hcnt, hleft, htext, hshape⟩ := hdiscard hst
    exact ⟨hcnt, hleft, .inr ⟨hst, htext, hshape⟩⟩

/-- Before the header is complete, the state and the bytes collected say everything. -/
theorem rxOk.eq_atHeader {r : Rx} (h : rxOk r) (hb : r.state ≠ .body) (hd : r.state ≠ .discard) :
    r = .atHeader r.state r.hbuf r.hcnt := by
  obtain ⟨hhunt, h2, h3, hhdr, _, _⟩ := h
  cases hst : r.state with
  | hunt => rw [hhunt hst]; rfl
  | sync2 => rw [← hst]; exact (h2 hst).1
  | sync3 => rw [← hst]; exact (h3 hst).1
  | hdr => rw [← hst]; exact (hhdr hst).1
  | body => exact absurd hst hb
  | discard => exact absurd hst hd

theorem RxBuffersOk.atHeader {m : Memory} (hm : Memory.ok 28 m = true) (st : ScanState) (n : Nat) :
    RxBuffersOk (.atHeader st m n) := ⟨hm, rfl, rfl, rfl, rfl⟩

theorem rxOk_atHeader_sync2 (m : Memory) : rxOk (.atHeader .sync2 m 1) := by simp [rxOk, Rx.atHeader]

theorem rxOk_atHeader_sync3 (m : Memory) : rxOk (.atHeader .sync3 m 2) := by simp [rxOk, Rx.atHeader]

theorem rxOk_atHeader_hdr (m : Memory) {n : Nat} (hlo : 3 ≤ n) (hhi : n ≤ 27) : rxOk (.atHeader .hdr m n) := by
  simp [rxOk, Rx.atHeader, hlo, hhi]

theorem rxOk.hcnt_hdr {r : Rx} (h : rxOk r) (hst : r.state = .hdr) : 3 ≤ r.hcnt ∧ r.hcnt ≤ 27 := by
  obtain ⟨_, _, _, hhdr, _⟩ := h
  exact (hhdr hst).2

/-! ## The receive engine: one byte -/

/-- Taking a sync byte from a frame that has collected only header bytes. -/
theorem takeSync_atHeader {s : State} {st : ScanState} {m : Memory} {n : Nat} (h : s.rx = .atHeader st m n) (k : Nat)
    (st' : ScanState) (b : Byte) : (takeSync k st' b s).rx = .atHeader st' (Memory.write m k b) (k + 1) := by
  rw [takeSync_rx, h]
  rfl

/-- A sync byte taken where the state it leads to goes with the count. -/
theorem Inv.takeSync {s : State} {st st' : ScanState} {m : Memory} {n k : Nat} (hblock : BlockOk s)
    (hrx : s.rx = .atHeader st m n) (hm : Memory.ok 28 m = true) (hk : k < 28)
    (hpos : ∀ m', rxOk (.atHeader st' m' (k + 1))) (b : Byte) : Inv (takeSync k st' b s) := by
  rw [inv_iff, takeSync_atHeader hrx]
  exact ⟨hblock.takeSync k st' b, .atHeader (Memory.ok_write hm hk) _ _, hpos _⟩

theorem Inv.restart {s : State} (h : BlockOk s) (b : Byte) : Inv (restart b s) := by
  rcases restart_cases b s with heq | ⟨_, _, heq⟩ <;> rw [heq]
  · exact .clearFrame h
  · exact .takeSync (st := .hunt) (m := []) (n := 0) h.clearFrame rfl rfl (by decide) rxOk_atHeader_sync2 b

/-- What a whole header leaves: a cleared frame, or a frame to consume. -/
def AfterHeader (s : State) : Prop := s.rx = Rx.cleared ∨ RxBuffersOk s.rx ∧ InFrame s.rx

theorem AfterHeader.inv {s : State} (hblock : BlockOk s) (h : AfterHeader s) : Inv s := by
  rcases h with hrx | ⟨hbuf, hframe⟩
  · exact (inv_iff s).2 ⟨hblock, hrx ▸ .cleared, hrx ▸ rxOk_cleared⟩
  · exact (inv_iff s).2 ⟨hblock, hbuf, hframe.rxOk⟩

/-- A shape always has bytes to consume, so a frame of which none is consumed is one to consume. -/
theorem afterHeader_of_shape {s : State} (hblock : BlockOk s) (hbuf : RxBuffersOk s.rx) (hcnt : s.rx.hcnt = 28)
    (hpos : s.rx.pos = 0) (hshape : frameShape s.rx) : BlockOk s ∧ AfterHeader s := by
  have hfour := hshape.consume_bounds.1
  exact ⟨hblock, .inr ⟨hbuf, hcnt, by omega, hshape⟩⟩

/-- `classify` on a fresh frame sets up an order, a telemetry body or bytes to discard, or clears the frame. -/
theorem classify_afterHeader {s : State} (hblock : BlockOk s) (hbuf : RxBuffersOk s.rx) (hcnt : s.rx.hcnt = 28)
    (htext : s.rx.textLen = 0) : BlockOk (classify s) ∧ AfterHeader (classify s) := by
  have hrx : ∀ r, BlockOk { s with rx := r } := fun r => hblock.withRxEnv r s.env
  rcases classify_cases s with ⟨r, rfl, heq⟩ | ⟨r, rfl, heq | heq⟩ | ⟨r, rfl, heq⟩ | ⟨n, hn, heq⟩ | heq
  · rw [heq]
    exact afterHeader_of_shape (hrx _) { hbuf with } hcnt rfl (.inl ⟨rfl, .inl ⟨rfl, rfl, rfl⟩⟩)
  · rw [heq]
    exact afterHeader_of_shape (hrx _) { hbuf with } hcnt rfl (.inl ⟨rfl, .inr ⟨rfl, htext, rfl⟩⟩)
  · rw [heq]
    exact afterHeader_of_shape ((hrx _).event _) { hbuf with } hcnt rfl (.inl ⟨rfl, .inr ⟨rfl, htext, rfl⟩⟩)
  · rcases heq with heq | heq <;> rw [heq] <;>
      exact afterHeader_of_shape ((hrx _).event _) { hbuf with } hcnt rfl (.inr ⟨rfl, htext, .inl ⟨rfl, rfl⟩⟩)
  · rw [heq]
    exact afterHeader_of_shape (hrx _) { hbuf with } hcnt rfl (.inr ⟨rfl, htext, .inr ⟨rfl, hn⟩⟩)
  · rw [heq]
    exact ⟨hblock.clearFrame.event _, .inl rfl⟩

/-- The 28th header byte is the last one collected. -/
theorem headerDone_afterHeader {s : State} {m : Memory} (hblock : BlockOk s) (hrx : s.rx = .atHeader .hdr m 28)
    (hm : Memory.ok 28 m = true) : BlockOk (headerDone s) ∧ AfterHeader (headerDone s) := by
  rcases headerDone_cases s with ⟨_, heq⟩ | ⟨f, _, heq⟩ <;> rw [heq]
  · exact ⟨(hblock.event _).clearFrame, .inl rfl⟩
  · have hbuf : RxBuffersOk (headerTaken f s).rx := by
      rw [headerTaken_rx, hrx]
      exact ⟨hm, rfl, rfl, rfl, rfl⟩
    exact classify_afterHeader { hblock with } hbuf (by rw [headerTaken_rx, hrx]; rfl) (by rw [headerTaken_rx, hrx]; rfl)

/-- A header byte that is not the 28th is collected. -/
theorem hdrByte_collect {s : State} {m : Memory} {n : Nat} (hrx : s.rx = .atHeader .hdr m n) (hn : n + 1 ≠ 28) (b : Byte) :
    hdrByte b s = { s with rx := .atHeader .hdr (Memory.write m n b) (n + 1) } := by
  unfold hdrByte
  simp only [hrx, Rx.atHeader, if_neg hn]

theorem hdrByte_last {s : State} {m : Memory} (hrx : s.rx = .atHeader .hdr m 27) (b : Byte) :
    hdrByte b s = headerDone { s with rx := .atHeader .hdr (Memory.write m 27 b) 28 } := by
  unfold hdrByte
  simp only [hrx, Rx.atHeader, if_true]

/-- The last byte of a header is followed by HUNT or by the bytes after the header. -/
theorem hdrByte_last_afterHeader {s : State} {m : Memory} (hblock : BlockOk s) (hrx : s.rx = .atHeader .hdr m 27)
    (hm : Memory.ok 28 m = true) (b : Byte) : BlockOk (hdrByte b s) ∧ AfterHeader (hdrByte b s) := by
  rw [hdrByte_last hrx]
  exact headerDone_afterHeader (hblock.withRxEnv _ _) rfl (Memory.ok_write hm (by decide))

theorem bodyCrc_buffers {r : Rx} (h : RxBuffersOk r) (hpos : r.pos < r.consume) (hfour : 4 ≤ r.consume) (b : Byte) :
    RxBuffersOk (bodyCrc b r) := by
  unfold bodyCrc
  split
  · exact { h with }
  · exact { h with rcrc := Memory.ok_write h.rcrc (by omega) }

theorem bodyStore_buffers {r : Rx} (h : RxBuffersOk r) (b : Byte) : RxBuffersOk (bodyStore b r) := by
  unfold bodyStore
  split
  · split
    · rename_i hresp
      exact { h with resp := Memory.ok_write h.resp hresp }
    · split
      · rename_i htext
        exact { h with text := Memory.ok_write h.text htext.2 }
      · exact h
  · split
    · rename_i hbody
      exact { h with tmbody := Memory.ok_write h.tmbody hbody.2 }
    · exact h

/-- A body byte is stored inside the buffer it goes to. -/
theorem bodyTaken_buffers {r : Rx} (h : RxBuffersOk r) (hpos : r.pos < r.consume) (hfour : 4 ≤ r.consume) (b : Byte) :
    RxBuffersOk (bodyTaken b r) :=
  { bodyStore_buffers (bodyCrc_buffers h hpos hfour b) b with }

theorem frameShape_congr {r r' : Rx} (h : frameShape r) (hst : r'.state = r.state) (hcls : r'.cls = r.cls)
    (htext : r'.textLen = r.textLen) (hcons : r'.consume = r.consume) (hlen : r'.bodyLen = r.bodyLen) : frameShape r' := by
  unfold frameShape
  rw [hst, hcls, htext, hcons, hlen]
  exact h

theorem bodyTaken_shape {r : Rx} (h : frameShape r) (b : Byte) : frameShape (bodyTaken b r) := by
  obtain ⟨hst, _, _, _, _, hlen, hcls, hcons, htext, _, _⟩ := bodyTaken_frame b r
  exact frameShape_congr h hst hcls htext hcons hlen

@[simp] theorem frameEnd_rx (s : State) : (frameEnd s).rx = Rx.cleared := by
  unfold frameEnd
  split <;> rfl

/-- The end of a frame fills the slot or the FIFO from the frame's buffers, or does neither. -/
theorem BlockOk.frameEnd {s : State} (h : BlockOk s) (hbuf : RxBuffersOk s.rx) (hlen : s.rx.textLen < 2 ^ 16) :
    BlockOk (frameEnd s) := by
  rcases frameEnd_cases s with heq | ⟨_, heq⟩ | ⟨_, _, heq⟩ | heq <;> rw [heq]
  · exact (h.event _).clearFrame
  · exact (h.deposit _ (Memory.ok_iff.1 hbuf.text).1 hlen).clearFrame
  · exact (h.tmAccept _ (Memory.ok_iff.1 hbuf.tmbody).1).clearFrame
  · exact h.clearFrame

/-! ### BODY and DISCARD count the frame's bytes -/

theorem bodyByte_eq (b : Byte) (s : State) :
    bodyByte b s = if s.rx.pos + 1 = s.rx.consume then frameEnd { s with rx := bodyTaken b s.rx }
      else { s with rx := bodyTaken b s.rx } := by
  obtain ⟨_, _, _, _, _, _, _, hcons, _, _, hpos⟩ := bodyTaken_frame b s.rx
  simp only [bodyByte, hcons, hpos]

theorem discardByte_eq (s : State) :
    discardByte s = if s.rx.pos + 1 = s.rx.consume then clearFrame { s with rx := { s.rx with pos := s.rx.pos + 1 } }
      else { s with rx := { s.rx with pos := s.rx.pos + 1 } } := rfl

/-- The last byte of a frame clears it. -/
theorem rxByte_frame_last {s : State} (hst : s.rx.state = .body ∨ s.rx.state = .discard)
    (hlast : s.rx.pos + 1 = s.rx.consume) (b : Byte) : (rxByte b s).rx = Rx.cleared := by
  rcases hst with hst | hst
  · rw [rxByte_body hst, bodyByte_eq, if_pos hlast, frameEnd_rx]
  · rw [rxByte_discard hst, discardByte_eq, if_pos hlast, clearFrame_rx]

/-- A byte that is not the last leaves the engine in the same state, one byte further. -/
theorem rxByte_frame_inside {s : State} (hst : s.rx.state = .body ∨ s.rx.state = .discard)
    (hinside : s.rx.pos + 1 ≠ s.rx.consume) (b : Byte) :
    (rxByte b s).rx.state = s.rx.state ∧ (rxByte b s).rx.consume = s.rx.consume ∧ (rxByte b s).rx.pos = s.rx.pos + 1 := by
  rcases hst with hst | hst
  · obtain ⟨hst', _, _, _, _, _, _, hcons, _, _, hpos⟩ := bodyTaken_frame b s.rx
    rw [rxByte_body hst, bodyByte_eq, if_neg hinside]
    exact ⟨hst', hcons, hpos⟩
  · rw [rxByte_discard hst, discardByte_eq, if_neg hinside]
    exact ⟨rfl, rfl, rfl⟩

/-! ### Every byte keeps the invariant -/

theorem Inv.huntByte {s : State} (h : Inv s) (hst : s.rx.state = .hunt) (b : Byte) : Inv (huntByte b s) := by
  obtain ⟨hblock, hbuf, hpos⟩ := (inv_iff s).1 h
  unfold Machine.huntByte
  split
  · exact .takeSync hblock (hpos.eq_atHeader (by simp [hst]) (by simp [hst])) hbuf.hbuf (by decide) rxOk_atHeader_sync2 b
  · exact h.of_block (hblock.event _) rfl

theorem Inv.sync2Byte {s : State} (h : Inv s) (hst : s.rx.state = .sync2) (b : Byte) : Inv (sync2Byte b s) := by
  obtain ⟨hblock, hbuf, hpos⟩ := (inv_iff s).1 h
  unfold Machine.sync2Byte
  split
  · exact .takeSync hblock (hpos.eq_atHeader (by simp [hst]) (by simp [hst])) hbuf.hbuf (by decide) rxOk_atHeader_sync3 b
  · exact .restart (hblock.event _) b

theorem Inv.sync3Byte {s : State} (h : Inv s) (hst : s.rx.state = .sync3) (b : Byte) : Inv (sync3Byte b s) := by
  obtain ⟨hblock, hbuf, hpos⟩ := (inv_iff s).1 h
  unfold Machine.sync3Byte
  split
  · exact .takeSync hblock (hpos.eq_atHeader (by simp [hst]) (by simp [hst])) hbuf.hbuf (by decide)
      (fun m => rxOk_atHeader_hdr m (by decide) (by decide)) b
  · exact .restart (hblock.event _) b

theorem Inv.hdrByte {s : State} (h : Inv s) (hst : s.rx.state = .hdr) (b : Byte) : Inv (hdrByte b s) := by
  obtain ⟨hblock, hbuf, hpos⟩ := (inv_iff s).1 h
  obtain ⟨hlo, hhi⟩ := hpos.hcnt_hdr hst
  have hrx : s.rx = .atHeader .hdr s.rx.hbuf s.rx.hcnt := hst ▸ hpos.eq_atHeader (by simp [hst]) (by simp [hst])
  by_cases hlast : s.rx.hcnt = 27
  · obtain ⟨hblock', hafter⟩ := hdrByte_last_afterHeader hblock (hlast ▸ hrx) hbuf.hbuf b
    exact hafter.inv hblock'
  · rw [hdrByte_collect hrx (by omega), inv_iff]
    exact ⟨hblock.withRxEnv _ _, .atHeader (Memory.ok_write hbuf.hbuf (by omega)) _ _,
      rxOk_atHeader_hdr _ (by omega) (by omega)⟩

theorem Inv.bodyByte {s : State} (h : Inv s) (hst : s.rx.state = .body) (b : Byte) : Inv (bodyByte b s) := by
  obtain ⟨hblock, hbuf, hpos⟩ := (inv_iff s).1 h
  obtain ⟨hcnt, hleft, hshape⟩ := hpos.inFrame (.inl hst)
  have hbuf' := bodyTaken_buffers hbuf hleft hshape.consume_bounds.1 b
  have hshape' := bodyTaken_shape hshape b
  obtain ⟨_, _, hcnt', _, _, _, _, hcons', _, _, hpos'⟩ := bodyTaken_frame b s.rx
  rw [bodyByte_eq]
  split
  · refine (inv_iff _).2 ⟨.frameEnd (hblock.withRxEnv _ _) hbuf' hshape'.textLen_lt, ?_⟩
    rw [frameEnd_rx]
    exact ⟨.cleared, rxOk_cleared⟩
  · rename_i hinside
    exact (inv_iff _).2 ⟨hblock.withRxEnv _ _, hbuf', InFrame.rxOk ⟨hcnt'.trans hcnt, by dsimp only; omega, hshape'⟩⟩

theorem Inv.discardByte {s : State} (h : Inv s) (hst : s.rx.state = .discard) : Inv (discardByte s) := by
  obtain ⟨hblock, hbuf, hpos⟩ := (inv_iff s).1 h
  obtain ⟨hcnt, hleft, hshape⟩ := hpos.inFrame (.inr hst)
  rw [discardByte_eq]
  split
  · exact .clearFrame (hblock.withRxEnv _ _)
  · rename_i hinside
    exact (inv_iff _).2 ⟨hblock.withRxEnv _ _, { hbuf with }, InFrame.rxOk ⟨hcnt, by dsimp only; omega, hshape⟩⟩

theorem Inv.rxByte {s : State} (h : Inv s) (b : Byte) : Inv (rxByte b s) := by
  cases hst : s.rx.state with
  | hunt => rw [rxByte_hunt hst]; exact h.huntByte hst b
  | sync2 => rw [rxByte_sync2 hst]; exact h.sync2Byte hst b
  | sync3 => rw [rxByte_sync3 hst]; exact h.sync3Byte hst b
  | hdr => rw [rxByte_hdr hst]; exact h.hdrByte hst b
  | body => rw [rxByte_body hst]; exact h.bodyByte hst b
  | discard => rw [rxByte_discard hst]; exact h.discardByte hst

/-! ## Every turn keeps the invariant -/

theorem Inv.withEnv {s : State} (h : Inv s) (e : Env) : Inv { s with env := e } := h.of_block { h.block with } rfl

theorem Inv.afterTurn {s : State} (h : Inv s) : Inv (afterTurn s) := by
  unfold Machine.afterTurn
  split <;> exact h.withEnv _

theorem InvNext.runCommand {s : State} (h : Inv s) (w : Word) : InvNext (runCommand w s) := by
  cases hd : decode w with
  | ok i =>
    rw [runCommand_ok hd]
    exact .exec h i
  | error e =>
    rw [runCommand_error hd]
    intro t ht
    cases ht
    exact h.of_block (h.block.result _ _ _) (result_rx _ _ _ s)

theorem Inv.rxeStep {s : State} (h : Inv s) : Inv (rxeStep s) := by
  rcases rxeStep_cases s with ⟨b, bs, _, _, heq⟩ | heq <;> rw [heq]
  · exact (h.withEnv _).rxByte b
  · exact h

theorem Inv.blockReset (s : State) : Inv (blockReset s) :=
  (inv_iff _).2 ⟨BlockOk.reset.withRxEnv _ _, .cleared, rxOk_cleared⟩

@[simp] theorem writeReg_rx (r : Reg) (v : Word) (s : State) : (writeReg r v s).rx = s.rx := by
  cases r <;> rfl

@[simp] theorem txeStep_rx (s : State) : (txeStep s).rx = s.rx := by
  unfold txeStep
  split <;> rfl

theorem InvNext.runTurn {s : State} (h : Inv s) (t : Turn) : InvNext (runTurn t s) := by
  intro s' hs
  rcases runTurn_cases hs with ⟨_, _, _, _, rfl⟩ | ⟨_, _, v, _, _, _, hcmd⟩ | ⟨_, _, v, _, _, _, rfl⟩ | ⟨_, rfl⟩ |
    ⟨_, rfl⟩ | ⟨_, _, rfl⟩ | ⟨_, _, rfl⟩ | ⟨_, rfl⟩
  · exact h.withEnv _
  · exact InvNext.runCommand h v s' hcmd
  · exact h.of_block (h.block.writeReg _ v) (writeReg_rx _ v s)
  · exact h.rxeStep
  · exact h.of_block h.block.txeStep (txeStep_rx s)
  · exact h.withEnv _
  · exact h.withEnv _
  · exact .blockReset s

/-- Settles O59: a step is a turn on the state with that turn taken off, and every turn keeps the invariant. -/
theorem invariantKeptByEveryStep : Obligations.InvariantKeptByEveryStep :=
  fun _ s' h hs => InvNext.runTurn h.afterTurn _ s' hs

/-! ## How long a frame can take -/

/-- A frame being consumed ends with exactly the byte SCAN_REM counts last. -/
theorem rxBytes_frame_hunt_iff {bs : List Byte} {s : State} (hst : s.rx.state = .body ∨ s.rx.state = .discard)
    (hleft : s.rx.pos < s.rx.consume) (hlen : bs.length ≤ s.rx.consume - s.rx.pos) :
    (rxBytes bs s).rx.state = .hunt ↔ bs.length = s.rx.consume - s.rx.pos := by
  induction bs generalizing s with
  | nil =>
    have hne : s.rx.state ≠ .hunt := by rcases hst with hst | hst <;> simp [hst]
    simp only [rxBytes, List.length_nil]
    exact ⟨fun h => absurd h hne, fun h => by omega⟩
  | cons b bs ih =>
    rw [List.length_cons] at hlen ⊢
    by_cases hlast : s.rx.pos + 1 = s.rx.consume
    · have hnil : bs = [] := List.eq_nil_of_length_eq_zero (by omega)
      subst hnil
      simp only [rxBytes, rxByte_frame_last hst hlast b, List.length_nil]
      exact ⟨fun _ => by omega, fun _ => rfl⟩
    · obtain ⟨hst', hcons, hpos⟩ := rxByte_frame_inside hst hlast b
      have hrec := ih (s := rxByte b s) (by rwa [hst']) (by omega) (by omega)
      rw [rxBytes, hrec]
      omega

/-- A goal that a measure counts down to is reached within the measure. -/
theorem rxBytes_reaches {P goal : State → Prop} {μ : State → Nat}
    (hstep : ∀ b s, P s → ¬goal s → P (rxByte b s) ∧ μ (rxByte b s) < μ s) (bs : List Byte) (s : State) (hP : P s)
    (hlen : μ s ≤ bs.length) : ∃ k, k ≤ μ s ∧ goal (rxBytes (bs.take k) s) := by
  induction bs generalizing s with
  | nil =>
    by_cases hg : goal s
    · exact ⟨0, Nat.zero_le _, hg⟩
    · have hdown := (hstep 0#8 s hP hg).2
      rw [List.length_nil] at hlen
      omega
  | cons b bs ih =>
    by_cases hg : goal s
    · exact ⟨0, Nat.zero_le _, hg⟩
    · obtain ⟨hP', hdown⟩ := hstep b s hP hg
      rw [List.length_cons] at hlen
      obtain ⟨k, hk, hgoal⟩ := ih (rxByte b s) hP' (by omega)
      exact ⟨k + 1, by omega, hgoal⟩

/-- With RESYNC_FIX = 0 a byte in SYNC2 goes on to SYNC3 or ends the attempt. -/
theorem rxByte_sync2_next {s : State} (hst : s.rx.state = .sync2) (hfix : resyncFix s = false) (b : Byte) :
    (rxByte b s).rx.state = .sync3 ∧ resyncFix (rxByte b s) = false ∨ (rxByte b s).rx.state = .hunt := by
  rw [rxByte_sync2 hst, sync2Byte]
  split
  · exact .inl ⟨rfl, hfix⟩
  · have hfix' : resyncFix (event .desync s) = false := hfix
    simp [restart, hfix', Rx.cleared]

/-- With RESYNC_FIX = 0 a byte in SYNC3 goes on to HDR with three bytes collected or ends the attempt. -/
theorem rxByte_sync3_next {s : State} (hst : s.rx.state = .sync3) (hfix : resyncFix s = false) (b : Byte) :
    (rxByte b s).rx.state = .hdr ∧ (rxByte b s).rx.hcnt = 3 ∨ (rxByte b s).rx.state = .hunt := by
  rw [rxByte_sync3 hst, sync3Byte]
  split
  · exact .inl ⟨rfl, rfl⟩
  · have hfix' : resyncFix (event .desync s) = false := hfix
    simp [restart, hfix', Rx.cleared]

/-- A byte in HDR is collected, or it is the last and HUNT or the bytes after the header follow. -/
theorem rxByte_hdr_next {s : State} (h : Inv s) (hst : s.rx.state = .hdr) (b : Byte) :
    (rxByte b s).rx.state = .hdr ∧ (rxByte b s).rx.hcnt = s.rx.hcnt + 1 ∨
    s.rx.hcnt = 27 ∧ ((rxByte b s).rx.state = .hunt ∨ (rxByte b s).rx.state = .body ∨ (rxByte b s).rx.state = .discard) := by
  obtain ⟨hblock, hbuf, hpos⟩ := (inv_iff s).1 h
  have hrx : s.rx = .atHeader .hdr s.rx.hbuf s.rx.hcnt := hst ▸ hpos.eq_atHeader (by simp [hst]) (by simp [hst])
  rw [rxByte_hdr hst]
  by_cases hlast : s.rx.hcnt = 27
  · obtain ⟨_, hrx' | ⟨_, hframe⟩⟩ := hdrByte_last_afterHeader hblock (hlast ▸ hrx) hbuf.hbuf b
    · exact .inr ⟨hlast, .inl (by rw [hrx']; rfl)⟩
    · exact .inr ⟨hlast, .inr hframe.shape.state⟩
  · rw [hdrByte_collect hrx (by omega)]
    exact .inl ⟨rfl, rfl⟩

/-- The bytes the engine can take before it is back in HUNT, when no attempt is restarted (70_reset_and_hazards.md R445). -/
def bytesToHunt (r : Rx) : Nat :=
  match r.state with
  | .hunt => 0
  | .sync2 => 2 + 25 + 65539
  | .sync3 => 1 + 25 + 65539
  | .hdr => 28 - r.hcnt + 65539
  | .body => r.consume - r.pos
  | .discard => r.consume - r.pos

theorem bytesToHunt_hdr {r : Rx} (hst : r.state = .hdr) : bytesToHunt r = 28 - r.hcnt + 65539 := by
  simp only [bytesToHunt, hst]

/-- The invariant, and no restart of a matching attempt. -/
def NoRestart (s : State) : Prop :=
  Inv s ∧ (s.rx.state = .sync2 ∨ s.rx.state = .sync3 → resyncFix s = false)

theorem NoRestart.of_inv {s : State} (h : Inv s)
    (hst : s.rx.state = .hunt ∨ s.rx.state = .hdr ∨ s.rx.state = .body ∨ s.rx.state = .discard) : NoRestart s := by
  refine ⟨h, fun hsync => ?_⟩
  rcases hsync with hsync | hsync <;> simp [hsync] at hst

/-- After the header at most 65539 bytes are left. -/
theorem bytesToHunt_le_of_inv {s : State} (h : Inv s)
    (hst : s.rx.state = .hunt ∨ s.rx.state = .body ∨ s.rx.state = .discard) : bytesToHunt s.rx ≤ 65539 := by
  obtain ⟨_, _, hpos⟩ := (inv_iff s).1 h
  rcases hst with hst | hst
  · simp [bytesToHunt, hst]
  · have hcons := (hpos.inFrame hst).shape.consume_bounds.2
    rcases hst with hst | hst <;> (simp only [bytesToHunt, hst]; omega)

/-- In BODY and DISCARD every byte counts down, whatever RESYNC_FIX is. -/
theorem rxByte_frame_counts_down {s : State} (h : Inv s) (hst : s.rx.state = .body ∨ s.rx.state = .discard) (b : Byte) :
    NoRestart (rxByte b s) ∧ bytesToHunt (rxByte b s).rx < bytesToHunt s.rx := by
  obtain ⟨_, _, hpos⟩ := (inv_iff s).1 h
  have hleft := (hpos.inFrame hst).left
  have hcount : bytesToHunt s.rx = s.rx.consume - s.rx.pos := by
    rcases hst with hst | hst <;> simp only [bytesToHunt, hst]
  by_cases hlast : s.rx.pos + 1 = s.rx.consume
  · have hrx := rxByte_frame_last hst hlast b
    have hzero : bytesToHunt (rxByte b s).rx = 0 := by rw [hrx]; rfl
    exact ⟨.of_inv (h.rxByte b) (.inl (by rw [hrx]; rfl)), by omega⟩
  · obtain ⟨hst', hcons, hpos'⟩ := rxByte_frame_inside hst hlast b
    have hcount' : bytesToHunt (rxByte b s).rx = s.rx.consume - (s.rx.pos + 1) := by
      rcases hst with hst | hst <;> simp only [bytesToHunt, hst', hst, hcons, hpos']
    exact ⟨.of_inv (h.rxByte b) (.inr (.inr (by rwa [hst']))), by omega⟩

/-- Outside HUNT every byte counts down. -/
theorem NoRestart.rxByte {s : State} (h : NoRestart s) (hne : s.rx.state ≠ .hunt) (b : Byte) :
    NoRestart (rxByte b s) ∧ bytesToHunt (rxByte b s).rx < bytesToHunt s.rx := by
  obtain ⟨hinv, hfix⟩ := h
  have hinv' := hinv.rxByte b
  cases hst : s.rx.state with
  | hunt => exact absurd hst hne
  | sync2 =>
    rcases rxByte_sync2_next hst (hfix (.inl hst)) b with ⟨hst', hfix'⟩ | hst'
    · exact ⟨⟨hinv', fun _ => hfix'⟩, by simp only [bytesToHunt, hst, hst']; omega⟩
    · exact ⟨.of_inv hinv' (.inl hst'), by simp only [bytesToHunt, hst, hst']; omega⟩
  | sync3 =>
    rcases rxByte_sync3_next hst (hfix (.inr hst)) b with ⟨hst', hcnt⟩ | hst'
    · exact ⟨.of_inv hinv' (.inr (.inl hst')), by simp only [bytesToHunt, hst, hst', hcnt]; omega⟩
    · exact ⟨.of_inv hinv' (.inl hst'), by simp only [bytesToHunt, hst, hst']; omega⟩
  | hdr =>
    obtain ⟨_, _, hpos⟩ := (inv_iff s).1 hinv
    obtain ⟨_, hhi⟩ := hpos.hcnt_hdr hst
    rcases rxByte_hdr_next hinv hst b with ⟨hst', hcnt⟩ | ⟨_, hafter⟩
    · exact ⟨.of_inv hinv' (.inr (.inl hst')), by simp only [bytesToHunt, hst, hst', hcnt]; omega⟩
    · have hbound := bytesToHunt_le_of_inv hinv' hafter
      exact ⟨.of_inv hinv' (hafter.imp_right .inr), by rw [bytesToHunt_hdr hst]; omega⟩
  | body => exact rxByte_frame_counts_down hinv (.inl hst) b
  | discard => exact rxByte_frame_counts_down hinv (.inr hst) b

/-- From any state without a restart the engine is in HUNT within the bound. -/
theorem NoRestart.reaches_hunt {s : State} (h : NoRestart s) {bs : List Byte} (hlen : bytesToHunt s.rx ≤ bs.length) :
    ∃ k, k ≤ bytesToHunt s.rx ∧ (rxBytes (bs.take k) s).rx.state = .hunt :=
  rxBytes_reaches (goal := fun s => s.rx.state = .hunt) (μ := fun s => bytesToHunt s.rx)
    (fun b _ hP hne => hP.rxByte hne b) bs s h hlen

/-- A matching attempt that a failing byte ends. -/
def Matching (s : State) : Prop := (s.rx.state = .sync2 ∨ s.rx.state = .sync3) ∧ resyncFix s = false

/-- The attempt has failed or has become a header. -/
def AttemptOver (s : State) : Prop := s.rx.state = .hunt ∨ s.rx.state = .hdr

/-- The sync bytes a matching attempt still needs. -/
def syncBytesLeft (r : Rx) : Nat :=
  match r.state with
  | .sync2 => 2
  | .sync3 => 1
  | .hunt | .hdr | .body | .discard => 0

theorem Matching.rxByte {s : State} (h : Matching s) (b : Byte) :
    (Matching (rxByte b s) ∨ AttemptOver (rxByte b s)) ∧ syncBytesLeft (rxByte b s).rx < syncBytesLeft s.rx := by
  obtain ⟨hst | hst, hfix⟩ := h
  · rcases rxByte_sync2_next hst hfix b with ⟨hst', hfix'⟩ | hst'
    · exact ⟨.inl ⟨.inr hst', hfix'⟩, by simp [syncBytesLeft, hst, hst']⟩
    · exact ⟨.inr (.inl hst'), by simp [syncBytesLeft, hst, hst']⟩
  · rcases rxByte_sync3_next hst hfix b with ⟨hst', _⟩ | hst'
    · exact ⟨.inr (.inr hst'), by simp [syncBytesLeft, hst, hst']⟩
    · exact ⟨.inr (.inl hst'), by simp [syncBytesLeft, hst, hst']⟩

theorem Matching.reaches_end {s : State} (h : Matching s) {bs : List Byte} (hlen : syncBytesLeft s.rx ≤ bs.length) :
    ∃ k, k ≤ syncBytesLeft s.rx ∧ AttemptOver (rxBytes (bs.take k) s) :=
  rxBytes_reaches (P := fun s => Matching s ∨ AttemptOver s) (μ := fun s => syncBytesLeft s.rx)
    (fun b _ hP hover => (hP.resolve_right hover).rxByte b) bs s (.inl h) hlen

/-- Settles O48: SCAN_REM counts down exactly, and the other bounds are the measure `bytesToHunt` at the state asked for. -/
theorem frameEndsAfterScanRem : Obligations.FrameEndsAfterScanRem := by
  intro bs s h
  obtain ⟨_, _, hpos⟩ := (inv_iff s).1 h
  refine ⟨fun hst => rxBytes_frame_hunt_iff hst (hpos.inFrame hst).left, fun hst hlen => ?_,
    fun hst hfix => ⟨fun hlen => ?_, fun hlen => ?_⟩⟩
  · rw [← bytesToHunt_hdr hst] at hlen ⊢
    exact (NoRestart.of_inv h (.inr (.inl hst))).reaches_hunt hlen
  · have hleft : syncBytesLeft s.rx ≤ 2 := by rcases hst with hst | hst <;> simp [syncBytesLeft, hst]
    obtain ⟨k, hk, hover⟩ := Matching.reaches_end ⟨hst, hfix⟩ (hleft.trans hlen)
    exact ⟨k, hk.trans hleft, hover⟩
  · have hcount : bytesToHunt s.rx ≤ 2 + 25 + 65539 := by rcases hst with hst | hst <;> simp [bytesToHunt, hst]
    obtain ⟨k, hk, hhunt⟩ := NoRestart.reaches_hunt ⟨h, fun _ => hfix⟩ (hcount.trans hlen)
    exact ⟨k, hk.trans hcount, hhunt⟩

/-! ## STATUS -/

theorem getLsbD_bitIf (b : Bool) {j : Nat} (hj : j < 32) (k : Nat) : (bitIf b j).getLsbD k = (decide (k = j) && b) := by
  cases b
  · simp [bitIf]
  · simp only [bitIf, if_true, BitVec.getLsbD_shiftLeft, BitVec.getLsbD_one, Bool.and_true]
    by_cases hk : k = j
    · simp [hk, hj]
    · simp [hk]
      omega

theorem getLsbD_stickyMask (k : Nat) : stickyMask.getLsbD k = decide (8 ≤ k ∧ k ≤ 16) := by
  by_cases hk : k < 32
  · revert k
    decide
  · rw [BitVec.getLsbD_of_ge _ _ (by omega)]
    simp
    omega

/-- A bit of STATUS is the level of its number, or the sticky bit of its number. -/
theorem getLsbD_status (s : State) (k : Nat) :
    (status s).getLsbD k =
      (decide (k = 0) && s.slotValid || decide (k = 1) && s.pending || decide (k = 2) && tmNonempty s ||
        decide (k = 3) && txBusy s || decide (k = 4) && rxActive s || s.sticky.getLsbD k && decide (8 ≤ k ∧ k ≤ 16)) := by
  simp only [status, levelBits, BitVec.getLsbD_or, BitVec.getLsbD_and, getLsbD_stickyMask,
    getLsbD_bitIf _ (show 0 < 32 by decide), getLsbD_bitIf _ (show 1 < 32 by decide),
    getLsbD_bitIf _ (show 2 < 32 by decide), getLsbD_bitIf _ (show 3 < 32 by decide),
    getLsbD_bitIf _ (show 4 < 32 by decide)]

theorem tmNonempty_eq (s : State) : tmNonempty s = decide (0 < s.tmFifo.length) := by
  unfold tmNonempty
  cases s.tmFifo <;> simp

theorem rxActive_eq (s : State) : rxActive s = decide (s.rx.state ≠ .hunt) := by
  unfold rxActive
  cases s.rx.state <;> rfl

/-- Settles O53: the level bits are 0 to 4, the sticky bits 8 to 16, and no other bit is set. -/
theorem statusBits : Obligations.StatusBits := by
  intro s k
  show (status s).getLsbD k = _
  rw [getLsbD_status, tmNonempty_eq, rxActive_eq, txBusy]
  by_cases hlevel : k ≤ 4
  · interval_cases k <;> simp
  · have hk : k ≠ 0 ∧ k ≠ 1 ∧ k ≠ 2 ∧ k ≠ 3 ∧ k ≠ 4 := by omega
    obtain ⟨h0, h1, h2, h3, h4⟩ := hk
    by_cases hsticky : 8 ≤ k ∧ k ≤ 16 <;> simp [h0, h1, h2, h3, h4, hsticky]


/-! ## The register map and what a read returns -/

theorem hostRead_aligned {off : Offset} (h : off.toNat % 4 = 0) (s : State) :
    hostRead off 4 s = .next { s with env := { s.env with hostGot := s.env.hostGot ++ [readReg (regAt off) s] } } :=
  checkAccess_ok (by simp [accessOk, accessWhole, accessAligned, h]) _

/-- The words of the window that the map leaves out (10_state.md R33, R68). -/
theorem regAtWord_reserved {w : Nat} (h : w = 15 ∨ w = 39 ∨ 59 ≤ w ∧ w ≤ 63 ∨ 156 ≤ w ∧ w ≤ 255 ∨ 320 ≤ w) :
    regAtWord w = .reserved := by
  have hdt : Config.hw.dtEntries = 8 := rfl
  have htext : Config.hw.textMax = 256 := rfl
  have hbody : Config.hw.tmBodyBytes = 112 := rfl
  have htx : Config.hw.txBodyMax = 256 := rfl
  unfold regAtWord
  iterate 8 refine (if_neg (by omega)).trans ?_
  iterate 3 refine (dif_neg (by omega)).trans ?_
  iterate 11 refine (if_neg (by omega)).trans ?_
  iterate 2 refine (dif_neg (by omega)).trans ?_
  iterate 3 refine (if_neg (by omega)).trans ?_
  iterate 3 refine (dif_neg (by omega)).trans ?_
  rfl

theorem regAt_reserved {off : Offset} (haligned : off.toNat % 4 = 0)
    (h : off = 0x03C#12 ∨ off = 0x09C#12 ∨ 0x0EC ≤ off.toNat ∧ off.toNat ≤ 0x0FC ∨
      0x270 ≤ off.toNat ∧ off.toNat ≤ 0x3FC ∨ 0x500 ≤ off.toNat) : regAt off = .reserved := by
  refine regAtWord_reserved ?_
  rcases h with rfl | rfl | h | h | h
  · decide
  · decide
  · omega
  · omega
  · omega

theorem hdrGet_eq (f : HdrWords) (k : Fin 6) :
    hdrGet f k = ([f.f0, f.f1, f.f2, f.f3, f.f4, f.f5] : List Word).getD k.val 0#32 := by
  fin_cases k <;> rfl

theorem cntGet_eq (c : Counters) (k : Fin 8) :
    cntGet c k = ([c.frames, c.desync, c.framing, c.unrec, c.crcerr, c.lenerr, c.tmdrop, c.orddrop] : List Word).getD
      k.val 0#32 := by
  fin_cases k <;> rfl

theorem and_low16 (x : Word) : x &&& 0x0000FFFF#32 = 0#16 ++ x.extractLsb' 0 16 := by
  apply BitVec.eq_of_getLsbD_eq
  intro i hi
  rw [BitVec.getLsbD_and, BitVec.getLsbD_append, BitVec.getLsbD_extractLsb']
  interval_cases i <;> simp

theorem and_low24 (x : Word) : x &&& 0x00FFFFFF#32 = 0#8 ++ x.extractLsb' 16 8 ++ x.extractLsb' 0 16 := by
  apply BitVec.eq_of_getLsbD_eq
  intro i hi
  rw [BitVec.getLsbD_and, BitVec.getLsbD_append, BitVec.getLsbD_append, BitVec.getLsbD_extractLsb',
    BitVec.getLsbD_extractLsb']
  interval_cases i <;> simp

/-- The two words of a time are its halves. -/
theorem time_halves (x : Time) : x.extractLsb' 32 32 ++ x.extractLsb' 0 32 = x := by
  rw [BitVec.extractLsb'_append_extractLsb'_eq_extractLsb' (by rfl)]
  exact BitVec.extractLsb'_eq_self

theorem toNat_zero_append {n m : Nat} (x : BitVec m) : (0#n ++ x).toNat = x.toNat := by
  simp [BitVec.toNat_append]

/-- The fields of SCAN (10_state.md R64). -/
theorem scanWord_fields (r : Rx) :
    (scanWord r).extractLsb' 0 3 = r.state.code ∧ (scanWord r).extractLsb' 3 5 = 0#5 ∧
    (scanWord r).extractLsb' 8 5 = BitVec.ofNat 5 r.hcnt ∧ (scanWord r).extractLsb' 13 3 = r.cls.code ∧
    (scanWord r).extractLsb' 16 16 = 0#16 := by
  have outer : ∀ (start len : Nat), 3 ≤ start → (scanWord r).extractLsb' start len =
      (0#16 ++ r.cls.code ++ BitVec.ofNat 5 r.hcnt ++ 0#5).extractLsb' (start - 3) len :=
    fun _ _ h => BitVec.extractLsb'_append_eq_of_le h
  refine ⟨BitVec.extractLsb'_append_eq_right, ?_, ?_, ?_, ?_⟩
  · rw [outer 3 5 (by decide)]
    exact BitVec.extractLsb'_append_eq_right
  · rw [outer 8 5 (by decide), BitVec.extractLsb'_append_eq_of_le (by decide)]
    exact BitVec.extractLsb'_append_eq_right
  · rw [outer 13 3 (by decide), BitVec.extractLsb'_append_eq_of_le (by decide),
      BitVec.extractLsb'_append_eq_of_le (by decide)]
    exact BitVec.extractLsb'_append_eq_right
  · rw [outer 16 16 (by decide), BitVec.extractLsb'_append_eq_of_le (by decide),
      BitVec.extractLsb'_append_eq_of_le (by decide)]
    exact BitVec.extractLsb'_append_eq_left

theorem scanRemWord_toNat {r : Rx} (h : r.consume ≤ 65539) :
    (scanRemWord r).toNat = if r.state = .body ∨ r.state = .discard then r.consume - r.pos else 0 := by
  have hrem : scanRem r < 2 ^ 17 := by
    unfold scanRem
    split <;> omega
  rw [scanRemWord, toNat_zero_append, BitVec.toNat_ofNat, Nat.mod_eq_of_lt hrem, scanRem]

/-- The fields of TX_STAT (10_state.md R66). -/
theorem txStatWord_fields {t : Tx} (hlen : t.len ≤ 288) (hpos : t.pos ≤ t.len) :
    ((txStatWord t).extractLsb' 0 16).toNat = t.len ∧ ((txStatWord t).extractLsb' 16 16).toNat = t.pos := by
  rw [txStatWord, BitVec.extractLsb'_append_eq_right, BitVec.extractLsb'_append_eq_left, BitVec.toNat_ofNat,
    BitVec.toNat_ofNat]
  omega

theorem tmHead_nil {s : State} (h : s.tmFifo = []) (f : TmEntry → Word) : tmHead s f = 0#32 := by
  unfold tmHead
  rw [h]

theorem tmHead_cons {s : State} {e : TmEntry} {rest : List TmEntry} (h : s.tmFifo = e :: rest) (f : TmEntry → Word) :
    tmHead s f = f e := by
  unfold tmHead
  rw [h]

theorem tmCount_toNat {s : State} (h : s.tmFifo.length ≤ 4) : (readReg .tmCount s).toNat = s.tmFifo.length := by
  show (0#24 ++ BitVec.ofNat 8 s.tmFifo.length).toNat = _
  rw [toNat_zero_append, BitVec.toNat_ofNat]
  omega

/-- Settles O55: the read step, the map, and what each register shows. -/
theorem readsHaveNoSideEffect : Obligations.ReadsHaveNoSideEffect := by
  refine ⟨fun off s h => hostRead_aligned h s,
    ⟨rfl, rfl, rfl, rfl, rfl, rfl, rfl, rfl, by decide, by decide, by decide, rfl, rfl, rfl, rfl, rfl, rfl, rfl, rfl, rfl,
      rfl, rfl, by decide, by decide, rfl, rfl, rfl, by decide, by decide, by decide,
      fun _ haligned h => regAt_reserved haligned h⟩, fun s => ?_⟩
  refine ⟨⟨rfl, rfl, rfl, rfl, rfl, rfl, rfl, rfl⟩, fun _ => rfl, hdrGet_eq s.hf, hdrGet_eq s.rh,
    ⟨and_low16 _, and_low24 _, and_low16 _, rfl, rfl, fun _ => rfl⟩, fun hnil => ?_, fun e rest hcons => ?_,
    tmCount_toNat, rfl, fun _ => rfl, cntGet_eq s.cnt, fun hcnt => ?_, fun _ hcons => scanRemWord_toNat hcons,
    txStatWord_fields, fun _ => rfl⟩
  · exact ⟨tmHead_nil hnil _, tmHead_nil hnil _, tmHead_nil hnil _, tmHead_nil hnil _, fun _ => tmHead_nil hnil _⟩
  · refine ⟨tmHead_cons hcons _, ?_, tmHead_cons hcons _, fun _ => tmHead_cons hcons _⟩
    show tmHead s _ ++ tmHead s _ = e.time
    rw [tmHead_cons hcons, tmHead_cons hcons, time_halves]
  · obtain ⟨hstate, hzero, hfield, hcls, hhigh⟩ := scanWord_fields s.rx
    refine ⟨hstate.trans ?_, hzero, ?_, hcls.trans ?_, hhigh⟩
    · cases s.rx.state <;> rfl
    · show ((scanWord s.rx).extractLsb' 8 5).toNat = _
      rw [hfield, BitVec.toNat_ofNat]
      omega
    · cases s.rx.cls <;> rfl

/-! ## Steps -/

/-- Settles O5: a step is the turn whose it is, and a host write to CMD of an operation's word is that operation. -/
theorem stepRunsDecodedOperation : Obligations.StepRunsDecodedOperation := by
  have chosen : ∀ (s : State) (t : Turn) (ts : List Turn), s.env.agenda = t :: ts →
      step s = runTurn t { s with env := { s.env with agenda := ts } } := by
    intro s t ts h
    rw [step_eq, turnOf_cons h, afterTurn, h]
  refine ⟨fun s w i ts hd _ h => ?_, chosen, fun s h => ?_⟩
  · rw [chosen s _ ts h]
    show checkAccess 0x014#12 4 (runCommand w _) = _
    rw [checkAccess_ok (by decide), runCommand_ok hd]
  · rw [step_eq, turnOf_nil h, afterTurn, h]

/-! ## Reset -/

/-- Settles O60: both parts of the invariant hold at reset, and the empty FIFO has no entry to be out of order. -/
theorem invariantAtReset : Obligations.InvariantAtReset :=
  ⟨(inv_iff _).2 ⟨.reset, .cleared, rxOk_cleared⟩, fun _ hk => absurd hk (Nat.not_lt_zero _)⟩

/-- The reset value of a register (10_state.md R80). -/
def resetReg : Reg → Word
  | .id => 0x4F454D34#32
  | .sync => 0x1C1244AA#32
  | .tmNextSeq => 0x00000001#32
  | .dt k => ([0x80000001#32, 0x80000004#32, 0x80000012#32, 0x80000013#32, 0x80000102#32, 0x8000028C#32, 0x80020026#32,
      0x800100F1#32] : List Word).getD k.val 0#32
  | _ => 0#32

theorem Memory.word_nil (a : Nat) : Memory.word [] a = 0#32 := by
  simp [Memory.word, le32]

theorem readReg_reset (r : Reg) : readReg r State.reset = resetReg r := by
  cases r with
  | dt k => revert k; decide
  | hf k => revert k; decide
  | rh k => revert k; decide
  | cnt k => revert k; decide
  | hbuf k => exact Memory.word_nil _
  | slotText j => exact Memory.word_nil _
  | txBody j => exact Memory.word_nil _
  | _ => rfl

/-- From the counters on, every register of the map is 0 after reset. -/
theorem resetReg_regAtWord_of_ge {w : Nat} (hw : 48 ≤ w) : resetReg (regAtWord w) = 0#32 := by
  have hdt : Config.hw.dtEntries = 8 := rfl
  unfold regAtWord
  iterate 8 refine (congrArg resetReg (if_neg (by omega))).trans ?_
  iterate 3 refine (congrArg resetReg (dif_neg (by omega))).trans ?_
  iterate 11 refine (congrArg resetReg (if_neg (by omega))).trans ?_
  refine (congrArg resetReg (dif_neg (by omega))).trans ?_
  split
  · rfl
  · split_ifs <;> rfl

/-- The reset value at an aligned offset, by the offset's word. -/
def resetAtWord (w : Nat) : Word :=
  if w = 0 then 0x4F454D34#32
  else if w = 4 then 0x1C1244AA#32
  else if w = 38 then 0x00000001#32
  else if w = 40 then 0x80000001#32
  else if w = 41 then 0x80000004#32
  else if w = 42 then 0x80000012#32
  else if w = 43 then 0x80000013#32
  else if w = 44 then 0x80000102#32
  else if w = 45 then 0x8000028C#32
  else if w = 46 then 0x80020026#32
  else if w = 47 then 0x800100F1#32
  else 0x00000000#32

theorem resetReg_regAtWord (w : Nat) : resetReg (regAtWord w) = resetAtWord w := by
  by_cases hw : w < 48
  · revert w
    decide
  · rw [resetReg_regAtWord_of_ge (by omega)]
    simp (disch := omega) only [resetAtWord, if_neg]

/-- An aligned offset is named by its word. -/
theorem offset_eq_iff {off : Offset} (h : off.toNat % 4 = 0) (a : Offset) (ha : a.toNat % 4 = 0) :
    off = a ↔ off.toNat / 4 = a.toNat / 4 := by
  rw [← BitVec.toNat_inj]
  omega

/-- Settles O57: every register has its reset value, and every aligned offset names its register. -/
theorem resetValues : Obligations.ResetValues := by
  refine ⟨fun off h => ?_, readReg_reset, by decide, rfl, rfl, rfl, rfl, rfl, rfl, fun a => rfl⟩
  have at_off := offset_eq_iff h
  rw [hostRead_aligned h, readReg_reset, regAt, resetReg_regAtWord, resetAtWord]
  simp only [at_off 0x000#12 (by decide), at_off 0x010#12 (by decide), at_off 0x098#12 (by decide),
    at_off 0x0A0#12 (by decide), at_off 0x0A4#12 (by decide), at_off 0x0A8#12 (by decide), at_off 0x0AC#12 (by decide),
    at_off 0x0B0#12 (by decide), at_off 0x0B4#12 (by decide), at_off 0x0B8#12 (by decide), at_off 0x0BC#12 (by decide)]
  rfl

end Sys2Proof.Machine
end

section
/-! PROOFS of 20_memory.md. What the check in front of a host access answers, and that whatever runs behind it completes. -/

namespace Sys2Proof.Machine

/-! ## Host accesses -/

/-- The width is looked at first: a narrow access is refused at an aligned offset and at a misaligned one alike. -/
theorem checkAccess_narrow {width : Nat} (h : width ≠ 4) (off : Offset) (go : Out) :
    checkAccess off width go = .refused (.notWholeWord width) :=
  if_pos (beq_false_of_ne h)

theorem checkAccess_misaligned {off : Offset} (h : off.toNat % 4 ≠ 0) (go : Out) :
    checkAccess off 4 go = .refused (.misaligned off) :=
  (if_neg (by decide)).trans (if_pos (beq_false_of_ne h))

theorem checkAccess_aligned {off : Offset} (h : off.toNat % 4 = 0) (go : Out) : checkAccess off 4 go = go :=
  checkAccess_ok (by rw [accessOk, accessAligned, h]; rfl) go

/-- Every word written to CMD completes, the illegal ones as well (30_encoding.md R144, 60_exceptions.md R402). -/
theorem runCommand_next (w : Word) (s : State) : ∃ t, runCommand w s = .next t := by
  cases hd : decode w with
  | ok i =>
    rw [runCommand_ok hd]
    exact exec_next i s
  | error e => exact ⟨_, runCommand_error hd s⟩

/-- An aligned write of a whole word completes, whether it launches an operation or stores into a register. -/
theorem hostWrite_next {off : Offset} (h : off.toNat % 4 = 0) (v : Word) (s : State) :
    ∃ t, hostWrite off 4 v s = .next t := by
  rw [hostWrite, checkAccess_aligned h]
  split
  case isTrue => exact runCommand_next v s
  case isFalse => exact ⟨_, rfl⟩

/-- Settles O54: the check refuses what is narrow or misaligned, and what it lets through completes. -/
theorem accessesRefused : Obligations.AccessesRefused := by
  intro off width v s
  refine ⟨rfl, rfl, fun hwidth => ?narrow, fun hoff => ?misaligned, fun hoff => ?aligned⟩
  case narrow => exact ⟨checkAccess_narrow hwidth off _, checkAccess_narrow hwidth off _⟩
  case misaligned => exact ⟨checkAccess_misaligned hoff _, checkAccess_misaligned hoff _⟩
  case aligned => exact ⟨⟨_, hostRead_aligned hoff s⟩, hostWrite_next hoff v s⟩

end Sys2Proof.Machine
end

section
/-! PROOFS of 30_encoding.md. The decoder by the opcode byte and the fields an operation reads, then what `classify` sets up for
each class; the settled statements are short uses of them. -/

namespace Sys2Proof

/-! ## The fields of an operation word -/

theorem byteField_opWord (h : Half) (b opc : Byte) : byteField (opWord h b opc) = b :=
  (BitVec.extractLsb'_append_eq_of_le (Nat.le_refl 8)).trans BitVec.extractLsb'_append_eq_right

theorem halfField_opWord (h : Half) (b opc : Byte) : halfField (opWord h b opc) = h :=
  (BitVec.extractLsb'_append_eq_of_le (show 8 ≤ 16 by decide)).trans BitVec.extractLsb'_append_eq_left

/-- A mask that is all ones over a field leaves the field as it is. -/
theorem extractLsb'_and_of_ones {m : Word} {k n : Nat} (h : m.extractLsb' k n = BitVec.allOnes n) (w : Word) :
    (w &&& m).extractLsb' k n = w.extractLsb' k n := by
  rw [BitVec.extractLsb'_and, h, BitVec.and_allOnes]

/-! ## The decoder -/

/-- The operation with its operand, if it has one, taken from the fields B and H: an operation reads B, H or neither
(30_encoding.md R140). -/
def Instr.withFields (b : Byte) (h : Half) : Instr → Instr
  | .crcByte _ => .crcByte b
  | .crcTxbody _ => .crcTxbody h.toNat
  | .txSend _ => .txSend h.toNat
  | .txIssue _ => .txIssue h.toNat
  | .slotArm _ => .slotArm h
  | .dtLookup _ => .dtLookup h
  | i => i

/-- The opcode byte selects the operation, and the word's other fields give its operand. -/
theorem decode_of_opcode {w : Word} {i : Instr} (h : opcField w = opcode i) :
    decode w = .ok (i.withFields (byteField w) (halfField w)) := by
  cases i <;> rw [decode, h] <;> rfl

theorem opcField_encode (i : Instr) : opcField (encode i) = opcode i := by
  cases i <;> exact Laws.OpcodeField.opWord_opcField _ _ _

/-- A count that fits H is read back from it. -/
theorem toNat_halfField_opWord {n : Nat} (hn : countFits n = true) (b opc : Byte) :
    (halfField (opWord (BitVec.ofNat 16 n) b opc)).toNat = n := by
  rw [halfField_opWord, BitVec.toNat_ofNat]
  exact Nat.mod_eq_of_lt (of_decide_eq_true hn)

/-- The fields of an operation's own word give back its operand. -/
theorem withFields_encode {i : Instr} (h : i.wf = true) :
    i.withFields (byteField (encode i)) (halfField (encode i)) = i := by
  cases i with
  | crcByte b => exact congrArg Instr.crcByte (byteField_opWord _ _ _)
  | crcTxbody n => exact congrArg Instr.crcTxbody (toNat_halfField_opWord h _ _)
  | txSend n => exact congrArg Instr.txSend (toNat_halfField_opWord h _ _)
  | txIssue n => exact congrArg Instr.txIssue (toNat_halfField_opWord h _ _)
  | slotArm x => exact congrArg Instr.slotArm (halfField_opWord _ _ _)
  | dtLookup x => exact congrArg Instr.dtLookup (halfField_opWord _ _ _)
  | _ => rfl

/-- Every operation reads its opcode byte. -/
theorem opcField_and_readMask (i : Instr) (w : Word) : opcField (w &&& readMask i) = opcField w :=
  extractLsb'_and_of_ones (by cases i <;> rw [readMask] <;> decide) w

/-- The fields an operation takes its operand from are among the bits it reads. -/
theorem withFields_and_readMask (i : Instr) (w : Word) :
    i.withFields (byteField (w &&& readMask i)) (halfField (w &&& readMask i)) =
      i.withFields (byteField w) (halfField w) := by
  have hbyte : byteField (w &&& 0x0000FFFF#32) = byteField w := extractLsb'_and_of_ones (by decide) w
  have hhalf : halfField (w &&& 0xFFFF00FF#32) = halfField w := extractLsb'_and_of_ones (by decide) w
  cases i with
  | crcByte b => exact congrArg Instr.crcByte hbyte
  | crcTxbody n => exact congrArg (fun x => Instr.crcTxbody x.toNat) hhalf
  | txSend n => exact congrArg (fun x => Instr.txSend x.toNat) hhalf
  | txIssue n => exact congrArg (fun x => Instr.txIssue x.toNat) hhalf
  | slotArm x => exact congrArg Instr.slotArm hhalf
  | dtLookup x => exact congrArg Instr.dtLookup hhalf
  | _ => rfl

/-- Clearing the bits an operation does not read does not change what its word decodes to. -/
theorem decode_and_readMask {w : Word} {i : Instr} (h : opcField w = opcode i) : decode (w &&& readMask i) = decode w := by
  rw [decode_of_opcode h, decode_of_opcode ((opcField_and_readMask i w).trans h), withFields_and_readMask]

/-- Settles O1: the opcode byte of the word selects the operation, and its fields give back the operand. -/
theorem decodeEncodeAgree : Obligations.DecodeEncodeAgree := by
  intro i hwf
  rw [decode_of_opcode (opcField_encode i), withFields_encode hwf]

/-- Settles O2: the word decodes as its read bits do, and those are the operation's own word. -/
theorem unreadFieldsIgnored : Obligations.UnreadFieldsIgnored := by
  intro i w hwf hw
  have hopc : opcField w = opcode i := by rw [← opcField_and_readMask i w, hw, opcField_encode]
  rw [← decode_and_readMask hopc, hw]
  exact decodeEncodeAgree i hwf

/-! ## Illegal opcodes -/

/-- The opcode bytes that 30_encoding.md R144 lists as illegal. -/
abbrev ListedIllegal (n : Nat) : Prop :=
  0x05 ≤ n ∧ n ≤ 0x0F ∨ 0x12 ≤ n ∧ n ≤ 0x1F ∨ 0x22 ≤ n ∧ n ≤ 0x2F ∨ 0x34 ≤ n ∧ n ≤ 0x3F ∨
    0x41 ≤ n ∧ n ≤ 0x4F ∨ 0x51 ≤ n ∧ n ≤ 0x5F ∨ 0x62 ≤ n ∧ n ≤ 0xFF

theorem opcode_legal (i : Instr) : ¬ListedIllegal (opcode i).toNat := by
  cases i <;> rw [opcode] <;> decide

/-- The decoder is total: a word is the operation of its opcode byte, or that byte lies in a gap of the opcode map. -/
theorem decode_cases (w : Word) :
    (∃ i, decode w = .ok i ∧ opcField w = opcode i) ∨
    (decode w = .error (.illegalOpcode (opcField w)) ∧ ListedIllegal (opcField w).toNat) := by
  unfold decode
  split
  case h_18 =>
    refine .inr ⟨rfl, ?_⟩
    simp only [imp_false, ListedIllegal] at *
    bv_omega
  all_goals exact .inl ⟨_, rfl, by assumption⟩

theorem decode_ok_iff (w : Word) : (∃ i, decode w = .ok i) ↔ ¬ListedIllegal (opcField w).toNat := by
  rcases decode_cases w with ⟨i, hi, hopc⟩ | ⟨herr, hill⟩
  · exact iff_of_true ⟨i, hi⟩ (hopc ▸ opcode_legal i)
  · exact iff_of_false (fun ⟨i, hi⟩ => nomatch herr.symm.trans hi) (not_not_intro hill)

theorem decode_error_of_illegal {w : Word} (h : ListedIllegal (opcField w).toNat) :
    decode w = .error (.illegalOpcode (opcField w)) := by
  rcases decode_cases w with ⟨i, _, hopc⟩ | ⟨herr, _⟩
  · exact absurd (hopc ▸ h) (opcode_legal i)
  · exact herr

/-- Settles O4: each word is the one its operation encodes to, and 0x05 lies in a gap of the opcode map. -/
theorem writtenWordsDecode : Obligations.WrittenWordsDecode :=
  ⟨decodeEncodeAgree (.crcByte 0x31#8) rfl, decodeEncodeAgree (.crcTxbody 8) rfl, decodeEncodeAgree .hdrUnpack rfl,
    decodeEncodeAgree (.txIssue 8) rfl, decodeEncodeAgree (.slotArm 38#16) rfl, decodeEncodeAgree .tmPop rfl,
    decodeEncodeAgree (.dtLookup 38#16) rfl, decodeEncodeAgree .scanReset rfl,
    decode_error_of_illegal (w := 0xFFFFFF05#32) (by decide)⟩

end Sys2Proof

namespace Sys2Proof.Machine

/-! ## Writing an illegal word to CMD -/

/-- A whole word written to CMD is run as an operation (10_state.md R46). -/
theorem hostWrite_cmd (w : Word) (s : State) : hostWrite 0x014#12 4 w s = runCommand w s :=
  (checkAccess_aligned (by decide) _).trans (if_pos (by decide))

/-- Settles O3: the gaps of the opcode map are the listed ranges, and a word in one of them raises OP_ERR. -/
theorem illegalOpcodes : Obligations.IllegalOpcodes := by
  intro w s
  refine ⟨decode_ok_iff w, fun hlisted => ?_⟩
  rw [hostWrite_cmd, runCommand_error (decode_error_of_illegal hlisted), execIllegal_eq]
  rfl

/-! ## Which class a frame is given (43_dispatcher.md R261) -/

theorem classOf_unlisted {s : State} {x : Half} (h : dtLookup s x = none) (ty : Byte) : classOf s x ty = .noClass := by
  rw [classOf, h]

theorem classOf_order {s : State} {x : Half} {k : Nat} (h : dtLookup s x = some (k, .order)) (ty : Byte) :
    classOf s x ty = .order := by
  rw [classOf, h]

theorem classOf_telem {s : State} {x : Half} {k : Nat} (h : dtLookup s x = some (k, .telem)) (ty : Byte) :
    classOf s x ty = .telem := by
  rw [classOf, h]

/-- The dual-purpose identifier is an order where the response bit of the message type is set (30_encoding.md R135). -/
theorem classOf_dual {s : State} {x : Half} {k : Nat} (h : dtLookup s x = some (k, .dual)) (ty : Byte) :
    classOf s x ty = if ty.getLsbD 7 then .order else .info := by
  rw [classOf, h]

/-! ## What each class sets up (43_dispatcher.md R262 to R267) -/

/-- The class `classify` gives the frame whose header is complete. -/
def frameClass (s : State) : RxClass := classOf s s.rx.msgId s.rx.msgType

/-- The setup of 43_dispatcher.md R263 to R267 that goes with a class. -/
def setUpClass (align : Bool) (c : RxClass) (s : State) : State :=
  match c with
  | .order => orderSetup align s
  | .telem => telemSetup s
  | .info => infoSetup align s
  | .noClass => unrecSetup align s
  | .skip => unrecSetup align s

/-- `classify` starts the count of the bytes after the header and sets the frame up by its class. -/
theorem classify_eq (s : State) :
    classify s = setUpClass (alignOn s) (frameClass s) { s with rx := { s.rx with pos := 0 } } := rfl

theorem classify_order_body {s : State} (hcls : frameClass s = .order)
    (h : 4 ≤ s.rx.bodyLen.toNat ∨ alignOn s = false) :
    classify s = { s with rx := { s.rx with
      pos := 0, cls := .order, textLen := s.rx.bodyLen.toNat - 4, consume := s.rx.bodyLen.toNat - 4 + 8, state := .body } } := by
  rw [classify_eq, hcls]
  exact if_pos h

theorem classify_order_short {s : State} (hcls : frameClass s = .order) (hlen : s.rx.bodyLen.toNat < 4)
    (halign : alignOn s = true) :
    classify s = event .lenErr { s with rx := { s.rx with
      pos := 0, cls := .skip, consume := s.rx.bodyLen.toNat + 4, state := .discard } } := by
  rw [classify_eq, hcls, halign]
  exact if_neg (by simpa using hlen)

theorem classify_telem {s : State} (hcls : frameClass s = .telem) (hlen : s.rx.bodyLen.toNat = 112) :
    classify s = { s with rx := { s.rx with
      pos := 0, cls := .telem, consume := s.rx.bodyLen.toNat + 4, state := .body } } := by
  rw [classify_eq, hcls]
  exact if_pos hlen

theorem classify_telem_badLength {s : State} (hcls : frameClass s = .telem) (hlen : s.rx.bodyLen.toNat ≠ 112) :
    classify s = event .lenErr { s with rx := { s.rx with
      pos := 0, cls := .telem, consume := s.rx.bodyLen.toNat + 4, state := .body, deliver := false } } := by
  rw [classify_eq, hcls]
  exact if_neg hlen

theorem classify_info {s : State} (hcls : frameClass s = .info) :
    classify s = { s with rx := { s.rx with
      pos := 0, cls := .info, consume := if alignOn s then s.rx.bodyLen.toNat + 4 else 8, state := .discard } } := by
  rw [classify_eq, hcls]
  rfl

theorem classify_unrec_aligned {s : State} (hcls : frameClass s = .noClass) (halign : alignOn s = true) :
    classify s = event .unrec { s with rx := { s.rx with
      pos := 0, cls := .skip, consume := s.rx.bodyLen.toNat + 4, state := .discard } } := by
  rw [classify_eq, hcls, halign]
  rfl

theorem classify_unrec_unaligned {s : State} (hcls : frameClass s = .noClass) (halign : alignOn s = false) :
    classify s = event .unrec (clearFrame s) := by
  rw [classify_eq, hcls, halign]
  rfl

/-- No byte after the header is counted yet, whatever the class. -/
theorem classify_pos (s : State) : (classify s).rx.pos = 0 := by
  rcases classify_cases s with ⟨r, rfl, heq⟩ | ⟨r, rfl, heq | heq⟩ | ⟨r, rfl, heq | heq⟩ | ⟨n, _, heq⟩ | heq <;>
    rw [heq] <;> rfl

/-- Settles O34: each row of the table is the whole state `classify` leaves for that class. -/
theorem consumptionTable : Obligations.ConsumptionTable := by
  intro s
  refine ⟨fun x ty => ⟨fun h => classOf_unlisted h ty, fun k => ⟨fun h => classOf_order h ty, fun h => classOf_telem h ty,
    fun h hbit => ?dualOrder, fun h hbit => ?dualInfo⟩⟩, classify_pos s, fun hcls hlen => ?order,
    fun hcls hlen halign => ?empty, fun hcls hlen halign => ?short, fun hcls => ?telem, fun hcls => ?info, fun hcls halign => ?skip,
    fun hcls halign => ?drop⟩
  case dualOrder => rw [classOf_dual h, if_pos hbit]
  case dualInfo => rw [classOf_dual h, hbit]; rfl
  case order =>
    rw [classify_order_body hcls (.inl hlen)]
    exact ⟨rfl, rfl, show _ - 4 + 8 = _ + 4 by omega, rfl, rfl, rfl⟩
  case empty =>
    rw [classify_order_body hcls (.inr halign)]
    exact ⟨rfl, rfl, show _ - 4 + 8 = 8 by omega, show _ - 4 = 0 by omega, rfl, rfl⟩
  case short =>
    dsimp only
    rw [classify_order_short hcls hlen halign]
    exact ⟨rfl, rfl, rfl, rfl, rfl⟩
  case telem =>
    dsimp only
    by_cases hlen : s.rx.bodyLen.toNat = 112
    · rw [classify_telem hcls hlen]
      exact ⟨rfl, rfl, rfl, fun _ => ⟨⟨rfl, rfl⟩, rfl⟩, fun hne => absurd hlen hne⟩
    · rw [classify_telem_badLength hcls hlen]
      exact ⟨rfl, rfl, rfl, fun heq => absurd heq hlen, fun _ => ⟨⟨rfl, rfl⟩, rfl⟩⟩
  case info =>
    rw [classify_info hcls]
    exact ⟨rfl, rfl, ⟨rfl, rfl⟩, rfl⟩
  case skip =>
    rw [classify_unrec_aligned hcls halign]
    exact ⟨rfl, rfl, rfl, rfl, rfl⟩
  case drop =>
    dsimp only
    rw [classify_unrec_unaligned hcls halign]
    exact ⟨rfl, rfl, rfl⟩

end Sys2Proof.Machine
end

section
/-! PROOFS of 40_crc.md. The loop of `crc_step` as a linear map over GF(2), from which the table form and the laws of `crc` follow;
how an operation completes; and, for the frame of every operation, one rule per piece of state an operation writes. -/

namespace Sys2Proof.Machine

/-! ## The loop of `crc_step` is linear (40_crc.md R180) -/

theorem crcShift_xor (c d : Word) : crcShift (c ^^^ d) = crcShift c ^^^ crcShift d := by
  unfold crcShift
  rw [BitVec.getLsbD_xor, BitVec.ushiftRight_xor_distrib]
  cases c.getLsbD 0 <;> cases d.getLsbD 0 <;> simp only [Bool.xor_false, Bool.xor_true, Bool.not_true, Bool.not_false,
    if_true, Bool.false_eq_true, if_false]
  · rw [BitVec.xor_assoc]
  · rw [BitVec.xor_assoc, BitVec.xor_assoc, BitVec.xor_comm (d >>> 1)]
  · rw [BitVec.xor_assoc, BitVec.xor_comm Config.hw.crcPolyR, BitVec.xor_assoc, BitVec.xor_self, BitVec.xor_zero]

theorem crcShifts_xor (k : Nat) (c d : Word) : crcShifts k (c ^^^ d) = crcShifts k c ^^^ crcShifts k d := by
  induction k generalizing c d with
  | zero => rfl
  | succ k ih => rw [crcShifts, crcShift_xor, ih, crcShifts, crcShifts]

/-- While only zeros leave at the low end, the loop only shifts. -/
theorem crcShifts_of_low_zero {k : Nat} {c : Word} (h : ∀ i < k, c.getLsbD i = false) : crcShifts k c = c >>> k := by
  induction k generalizing c with
  | zero => exact (BitVec.ushiftRight_zero c).symm
  | succ k ih =>
    have hturn : crcShift c = c >>> 1 := by rw [crcShift, h 0 k.succ_pos]; rfl
    have hlow : ∀ i < k, (c >>> 1).getLsbD i = false := by
      intro i hi
      rw [BitVec.getLsbD_ushiftRight]
      exact h (1 + i) (by omega)
    rw [crcShifts, hturn, ih hlow, ← BitVec.shiftRight_add, Nat.add_comm]

/-! ## One byte -/

theorem crcStep_xor (c d : Word) (a b : Byte) : crcStep (c ^^^ d) (a ^^^ b) = crcStep c a ^^^ crcStep d b := by
  rw [crcStep, crcStep, crcStep, ← crcShifts_xor, BitVec.setWidth_xor]
  ac_rfl

theorem crcStep_zero_zero : crcStep 0#32 0#8 = 0#32 := by decide

/-- A word is its low byte and a word whose low byte is 0. -/
theorem word_split_low (x : Word) : x = (x >>> 8 <<< 8) ^^^ (x.extractLsb' 0 8).setWidth 32 := by
  apply BitVec.eq_of_getLsbD_eq
  intro i hi
  simp only [BitVec.getLsbD_xor, BitVec.getLsbD_shiftLeft, BitVec.getLsbD_ushiftRight, BitVec.getLsbD_setWidth,
    BitVec.getLsbD_extractLsb']
  by_cases hlow : i < 8
  · simp [hi, hlow]
  · simp [hi, hlow, show 8 + (i - 8) = i by omega]

/-- A byte has no bit above bit 7. -/
theorem setWidth_byte_shiftRight (b : Byte) : b.setWidth 32 >>> 8 = 0#32 := by
  apply BitVec.eq_of_getLsbD_eq
  intro i _
  simp

/-- The upper three bytes are only shifted, and the low byte goes through the loop by itself. -/
theorem crcShifts_eight (x : Word) : crcShifts 8 x = (x >>> 8) ^^^ crcStep 0#32 (x.extractLsb' 0 8) := by
  have hhigh : crcShifts 8 (x >>> 8 <<< 8) = x >>> 8 := by
    rw [crcShifts_of_low_zero (fun i hi => by simp [hi])]
    apply BitVec.eq_of_getLsbD_eq
    intro i hi
    simp only [BitVec.getLsbD_ushiftRight, BitVec.getLsbD_shiftLeft]
    by_cases htop : 8 + i < 32
    · simp [htop]
    · simp [htop, BitVec.getLsbD_of_ge x (8 + i) (by omega)]
  calc crcShifts 8 x
      = crcShifts 8 ((x >>> 8 <<< 8) ^^^ (x.extractLsb' 0 8).setWidth 32) := by rw [← word_split_low]
    _ = (x >>> 8) ^^^ crcShifts 8 ((x.extractLsb' 0 8).setWidth 32) := by rw [crcShifts_xor, hhigh]
    _ = (x >>> 8) ^^^ crcStep 0#32 (x.extractLsb' 0 8) := by rw [crcStep, BitVec.zero_xor]

theorem crcStep_table (c : Word) (b : Byte) :
    crcStep c b = (c >>> 8) ^^^ crcStep 0#32 ((c ^^^ b.setWidth 32).extractLsb' 0 8) := by
  rw [crcStep, crcShifts_eight, BitVec.ushiftRight_xor_distrib, setWidth_byte_shiftRight, BitVec.xor_zero]

/-- Settles O11: the table form is the loop's linearity on the low byte and the rest; the entries are evaluated. -/
theorem crcTableForm : Obligations.CrcTableForm :=
  ⟨crcStep_table, by decide, by decide, by decide, by decide⟩

/-! ## Spans (40_crc.md R181, R182, R188) -/

theorem crc_eq_crcUpdate (bs : List Byte) : crc bs = crcUpdate 0#32 bs := BitVec.xor_zero

theorem crcUpdate_append (c : Word) (bs cs : List Byte) : crcUpdate c (bs ++ cs) = crcUpdate (crcUpdate c bs) cs := by
  induction bs generalizing c with
  | nil => rfl
  | cons b bs ih => exact ih (crcStep c b)

/-- Settles O10: the reset value and the final XOR are 0, and the check value is evaluated byte by byte. -/
theorem crcCheckValue : Obligations.CrcCheckValue := by
  refine ⟨crc_eq_crcUpdate, ?_⟩
  have acc1 : crcStep 0#32 0x31#8 = 0x51DE003A#32 := by decide
  have acc2 : crcStep 0x51DE003A#32 0x32#8 = 0x0E8A5632#32 := by decide
  have acc3 : crcStep 0x0E8A5632#32 0x33#8 = 0x7709BAC0#32 := by decide
  have acc4 : crcStep 0x7709BAC0#32 0x34#8 = 0xBAA73FBF#32 := by decide
  have acc5 : crcStep 0xBAA73FBF#32 0x35#8 = 0x0DD7CD01#32 := by decide
  have acc6 : crcStep 0x0DD7CD01#32 0x36#8 = 0xB8B072C2#32 := by decide
  have acc7 : crcStep 0xB8B072C2#32 0x37#8 = 0xCD6FB6E1#32 := by decide
  have acc8 : crcStep 0xCD6FB6E1#32 0x38#8 = 0xFFC205C6#32 := by decide
  have acc9 : crcStep 0xFFC205C6#32 0x39#8 = 0x2DFD2D88#32 := by decide
  simp only [crc_eq_crcUpdate, crcUpdate, acc1, acc2, acc3, acc4, acc5, acc6, acc7, acc8, acc9]

theorem crcUpdate_replicate_zero (k : Nat) : crcUpdate 0#32 (List.replicate k 0#8) = 0#32 := by
  induction k with
  | zero => rfl
  | succ k ih => rw [List.replicate_succ, crcUpdate, crcStep_zero_zero, ih]

/-- The low byte of the accumulator, taken as the next byte, cancels itself. -/
theorem crcStep_low_byte (c : Word) : crcStep c (c.extractLsb' 0 8) = c >>> 8 := by
  have hcancel : (c ^^^ (c.extractLsb' 0 8).setWidth 32).extractLsb' 0 8 = 0#8 := by
    apply BitVec.eq_of_getLsbD_eq
    intro i hi
    simp [hi, show i < 32 by omega]
  rw [crcStep_table, hcancel, crcStep_zero_zero, BitVec.xor_zero]

theorem extractLsb'_shiftRight_byte (c : Word) (k : Nat) : (c >>> k).extractLsb' 0 8 = c.extractLsb' k 8 := by
  apply BitVec.eq_of_getLsbD_eq
  intro i _
  simp

/-- Four bytes of the accumulator, the least significant first, shift it out. -/
theorem crcUpdate_bytesLE32 (c : Word) : crcUpdate c (bytesLE32 c) = 0#32 := by
  have shifted : ∀ k, crcStep (c >>> k) (c.extractLsb' k 8) = c >>> (k + 8) := by
    intro k
    rw [← extractLsb'_shiftRight_byte, crcStep_low_byte, BitVec.shiftRight_add]
  calc crcUpdate c (bytesLE32 c)
      = crcStep (crcStep (crcStep (crcStep c (c.extractLsb' 0 8)) (c.extractLsb' 8 8)) (c.extractLsb' 16 8))
          (c.extractLsb' 24 8) := rfl
    _ = c >>> 32 := by rw [crcStep_low_byte, shifted 8, shifted 16, shifted 24]
    _ = 0#32 := BitVec.ushiftRight_eq_zero (Nat.le_refl 32)

theorem crcUpdate_zipWith_xor {bs cs : List Byte} (h : bs.length = cs.length) (c d : Word) :
    crcUpdate (c ^^^ d) (List.zipWith (· ^^^ ·) bs cs) = crcUpdate c bs ^^^ crcUpdate d cs := by
  induction bs generalizing cs c d with
  | nil =>
    obtain rfl : cs = [] := List.eq_nil_of_length_eq_zero h.symm
    rfl
  | cons b bs ih =>
    cases cs with
    | nil => cases h
    | cons b' cs =>
      rw [List.zipWith_cons_cons, crcUpdate, crcStep_xor, ih (Nat.succ.inj h), crcUpdate, crcUpdate]

/-- Settles O12: each law is one about `crcUpdate` from the accumulator 0. -/
theorem crcLaws : Obligations.CrcLaws := by
  refine ⟨rfl, fun k bs => ?zeros, fun bs => ?residue, fun bs cs h => ?linear⟩
  case zeros => rw [crc_eq_crcUpdate, crcUpdate_append, crcUpdate_replicate_zero, crc_eq_crcUpdate]
  case residue => rw [crc_eq_crcUpdate, crcUpdate_append, crc_eq_crcUpdate, crcUpdate_bytesLE32]
  case linear =>
    simp only [crc_eq_crcUpdate]
    exact crcUpdate_zipWith_xor h 0#32 0#32

/-! ## The CRC operations -/

section
variable {i : Instr} {opc : Byte}

/-- An operation that completes with OK writes RESULT and nothing else (30_encoding.md R142). -/
theorem finish_ok (h : opcode i = opc) (a : Half) (s : State) :
    finish i .ok a s = .next { s with result := resultWord opc .ok a } := by
  rw [finish_eq, result_ok, h]

/-- An operation that is refused writes RESULT and sets OP_ERR, and does nothing else (30_encoding.md R142). -/
theorem finish_error (h : opcode i = opc) {c : Code} (hc : c ≠ .ok) (a : Half) (s : State) :
    finish i c a s = .next { s with result := resultWord opc c a, sticky := s.sticky ||| Event.opErr.mask } := by
  rw [finish_eq, result_error _ _ _ hc, h]
  rfl

end

theorem countOk_iff (n : Nat) : countOk n = true ↔ n ≤ 256 := decide_eq_true_iff

/-- Settles O6: the opcode byte alone is the operation, and it completes with OK. -/
theorem crcInitResult : Obligations.CrcInitResult :=
  ⟨fun _ hopc => decode_of_opcode (i := .crcInit) hopc, fun _ => finish_ok (opc := 0x01#8) rfl 0 _⟩

/-- Settles O7: the operand is the field B, and the operation completes with OK. -/
theorem crcByteResult : Obligations.CrcByteResult :=
  ⟨fun _ hopc => decode_of_opcode (i := .crcByte 0#8) hopc, fun _ _ => finish_ok (opc := 0x02#8) rfl 0 _⟩

/-- Settles O8: the opcode byte alone is the operation, and it completes with OK. -/
theorem crcHbufResult : Obligations.CrcHbufResult :=
  ⟨fun _ hopc => decode_of_opcode (i := .crcHbuf) hopc, fun _ => finish_ok (opc := 0x03#8) rfl 0 _⟩

/-- Settles O9: the operand is the field H, and the count decides between RANGE and OK. -/
theorem crcTxbodyResult : Obligations.CrcTxbodyResult := by
  refine ⟨fun _ hopc => decode_of_opcode (i := .crcTxbody 0) hopc, fun n s => ?_⟩
  show execCrcTxbody n s = _
  unfold execCrcTxbody
  by_cases hn : 256 < n
  · rw [if_neg (mt (countOk_iff n).1 (by omega)), if_pos hn]
    exact finish_error (opc := 0x04#8) (c := .range) rfl (by decide) 0 s
  · rw [if_pos ((countOk_iff n).2 (by omega)), if_neg hn]
    exact finish_ok (opc := 0x04#8) rfl 0 _

/-! ## The frame of every operation: one rule per piece of state that an operation writes, then the operations built from them -/

/-- Every register the rule of `i` does not name reads in `t` as in `s`. -/
def Framed (i : Instr) (s t : State) : Prop := ∀ r, mayChange i r = false → readReg r t = readReg r s

theorem Framed.refl (i : Instr) (s : State) : Framed i s s := fun _ _ => rfl

theorem Framed.trans {i : Instr} {s t u : State} (h : Framed i s t) (h' : Framed i t u) : Framed i s u :=
  fun r hr => (h' r hr).trans (h r hr)

/-- The frame says nothing of a register that may change. -/
theorem absurd_mayChange {i : Instr} {r : Reg} {P : Prop} (hr : mayChange i r = false) (h : mayChange i r = true) : P :=
  absurd (h.symm.trans hr) (by decide)

section
variable {i : Instr} {s : State}

/-- RESULT is its own register; the sticky bits and the two flags of the slot show in STATUS only. -/
theorem Framed.withFlags (w st : Word) (valid pending : Bool) :
    Framed i s { s with result := w, sticky := st, slotValid := valid, pending := pending } := by
  intro r hr
  cases r with
  | result => exact absurd_mayChange hr rfl
  | status => exact absurd_mayChange hr rfl
  | _ => rfl

theorem Framed.withCrcAcc (h : mayChange i .crcAcc = true) (v : Word) : Framed i s { s with crcAcc := v } := by
  intro r hr
  cases r with
  | crcAcc => exact absurd_mayChange hr h
  | _ => rfl

theorem Framed.withHbuf (h : ∀ k, mayChange i (.hbuf k) = true) (m : Memory) : Framed i s { s with hbuf := m } := by
  intro r hr
  cases r with
  | hbuf k => exact absurd_mayChange hr (h k)
  | _ => rfl

theorem Framed.withHf (h : ∀ k, mayChange i (.hf k) = true) (f : HdrWords) : Framed i s { s with hf := f } := by
  intro r hr
  cases r with
  | hf k => exact absurd_mayChange hr (h k)
  | _ => rfl

/-- SLOT_EXPECT is its own register; the pending flag shows in STATUS only. -/
theorem Framed.withExpect (h : mayChange i .slotExpect = true) (v : Word) (p : Bool) :
    Framed i s { s with slotExpect := v, pending := p } := by
  intro r hr
  cases r with
  | status => exact absurd_mayChange hr rfl
  | slotExpect => exact absurd_mayChange hr h
  | _ => rfl

/-- What an assembled frame writes: the field words, the header buffer and the transmit engine. -/
theorem Framed.withTx {f : HdrWords} (hf : ∀ k, mayChange i (.hf k) = true ∨ hdrGet f k = hdrGet s.hf k)
    (hbuf : ∀ k, mayChange i (.hbuf k) = true) (hstat : mayChange i .txStat = true) (m : Memory) (x : Tx) :
    Framed i s { s with hf := f, hbuf := m, tx := x } := by
  intro r hr
  cases r with
  | status => exact absurd_mayChange hr rfl
  | hf k => exact (hf k).elim (absurd_mayChange hr) id
  | hbuf k => exact absurd_mayChange hr (hbuf k)
  | txStat => exact absurd_mayChange hr hstat
  | _ => rfl

theorem Framed.withCnt (h : ∀ k, mayChange i (.cnt k) = true) (c : Counters) : Framed i s { s with cnt := c } := by
  intro r hr
  cases r with
  | cnt k => exact absurd_mayChange hr (h k)
  | _ => rfl

theorem Framed.tmPop (q : List TmEntry) : Framed .tmPop s { s with tmFifo := q } := by
  intro r hr
  cases r with
  | status => cases hr
  | tmSeq => cases hr
  | tmTimeLo => cases hr
  | tmTimeHi => cases hr
  | tmCrc => cases hr
  | tmCount => cases hr
  | tmBody j => cases hr
  | _ => rfl

theorem Framed.scanReset : Framed .scanReset s (clearFrame s) := by
  intro r hr
  cases r with
  | status => cases hr
  | scan => cases hr
  | scanRem => cases hr
  | _ => rfl

theorem hdrGet_withBodyLen {k : Fin 6} (h : k ≠ 1) (f : HdrWords) (n : Nat) : hdrGet (withBodyLen f n) k = hdrGet f k := by
  match k with
  | 1 => exact absurd rfl h
  | 0 | 2 | 3 | 4 | 5 => rfl

/-- `tx_build` writes the header, BODY_LEN in field word 1 and the frame to be sent (46_transmit.md R352). -/
theorem Framed.txBuild (hbuf : ∀ k, mayChange i (.hbuf k) = true) (hlen : mayChange i (.hf 1) = true)
    (hstat : mayChange i .txStat = true) (n : Nat) : Framed i s (txBuild n s) := by
  have hfields : ∀ k, mayChange i (.hf k) = true ∨ hdrGet (withBodyLen s.hf n) k = hdrGet s.hf k := by
    intro k
    by_cases hk : k = 1
    · exact .inl (hk ▸ hlen)
    · exact .inr (hdrGet_withBodyLen hk s.hf n)
  exact .withTx hfields hbuf hstat _ _

/-- Where the outcome is a next state, every register the operation does not name reads there as in `s`. -/
def FramedNext (i : Instr) (s : State) (o : Out) : Prop := ∀ t, o = .next t → Framed i s t

/-- Completing an operation writes RESULT and STATUS only. -/
theorem FramedNext.finish {t : State} (h : Framed i s t) (c : Code) (a : Half) : FramedNext i s (finish i c a t) := by
  intro u hu
  by_cases hc : c = .ok
  · subst hc
    cases (finish_ok rfl a t).symm.trans hu
    exact h.trans (.withFlags _ t.sticky t.slotValid t.pending)
  · cases (finish_error rfl hc a t).symm.trans hu
    exact h.trans (.withFlags _ _ t.slotValid t.pending)

/-- An operation that answers without doing anything. -/
theorem FramedNext.finish_same (c : Code) (a : Half) : FramedNext i s (Machine.finish i c a s) :=
  .finish (.refl i s) c a

theorem FramedNext.exec (i : Instr) (s : State) : FramedNext i s (exec i s) := by
  cases i with
  | nop => exact .finish_same _ _
  | crcInit => exact .finish (.withCrcAcc rfl _) _ _
  | crcByte b => exact .finish (.withCrcAcc rfl _) _ _
  | crcHbuf => exact .finish (.withCrcAcc rfl _) _ _
  | crcTxbody n =>
    simp only [Machine.exec, execCrcTxbody]
    split
    · exact .finish (.withCrcAcc rfl _) _ _
    · exact .finish_same _ _
  | hdrPack => exact .finish (.withHbuf (fun _ => rfl) _) _ _
  | hdrUnpack =>
    simp only [Machine.exec, execHdrUnpack]
    split
    · exact .finish_same _ _
    · exact .finish (.withHf (fun _ => rfl) _) _ _
  | txSend n =>
    simp only [Machine.exec, execTxSend]
    split
    · exact .finish_same _ _
    · split
      · exact .finish (.txBuild (fun _ => rfl) rfl rfl n) _ _
      · exact .finish_same _ _
  | txIssue n =>
    simp only [Machine.exec, execTxIssue]
    split
    · exact .finish_same _ _
    · split
      · exact .finish_same _ _
      · split
        · have hbuild : Framed (.txIssue n) s (Machine.txBuild n s) := .txBuild (fun _ => rfl) rfl rfl n
          exact .finish (hbuild.trans (.withExpect rfl _ true)) _ _
        · exact .finish_same _ _
  | slotArm x =>
    simp only [Machine.exec, execSlotArm]
    split
    · exact .finish_same _ _
    · exact .finish (.withExpect rfl _ true) _ _
  | slotTake =>
    simp only [Machine.exec, execSlotTake]
    split
    · exact .finish (.withFlags _ _ false false) _ _
    · exact .finish_same _ _
  | slotCancel => exact .finish (.withFlags _ _ _ false) _ _
  | slotFlush => exact .finish (.withFlags _ _ false _) _ _
  | tmPop =>
    simp only [Machine.exec, execTmPop]
    split
    · exact .finish_same _ _
    · exact .finish (.tmPop _) _ _
  | dtLookup x =>
    simp only [Machine.exec, execDtLookup]
    split <;> exact .finish_same _ _
  | scanReset => exact .finish .scanReset _ _
  | cntClear => exact .finish (.withCnt (fun _ => rfl) _) _ _

end

/-- Settles O39: every operation writes only pieces of state whose registers its rule names. -/
theorem operationFrame : Obligations.OperationFrame :=
  fun i s t r hexec hr => FramedNext.exec i s t hexec r hr

end Sys2Proof.Machine
end

section
/-! PROOFS of 41_header_codec.md. A header unpacks to `f` exactly when its 28 bytes are the packing of `f`: packing is injective, and
the words a buffer holds pack to its bytes. Both directions of the round trip follow from that. -/

namespace Sys2Proof.Machine

/-! ## Words as bytes (00_scope.md R10) -/

/-- A field of a field. -/
theorem extractLsb'_extractLsb'_byte {w : Word} {k j : Nat} (h : j + 8 ≤ 16) :
    (w.extractLsb' k 16).extractLsb' j 8 = w.extractLsb' (k + j) 8 := by
  apply BitVec.eq_of_getLsbD_eq
  intro i hi
  simp [hi, show j + i < 16 by omega, Nat.add_assoc]

/-- A 16-bit field of a word is two bytes of the word. -/
theorem bytesLE16_extractLsb' (w : Word) (k : Nat) :
    bytesLE16 (w.extractLsb' k 16) = [w.extractLsb' k 8, w.extractLsb' (k + 8) 8] := by
  rw [bytesLE16, extractLsb'_extractLsb'_byte (by decide), extractLsb'_extractLsb'_byte (by decide), Nat.add_zero]

/-- The bytes of the word of four bytes. -/
theorem bytesLE32_le32 (b0 b1 b2 b3 : Byte) : bytesLE32 (le32 b0 b1 b2 b3) = [b0, b1, b2, b3] := by
  have field0 : (le32 b0 b1 b2 b3).extractLsb' 0 8 = b0 := BitVec.extractLsb'_append_eq_right
  have field1 : (le32 b0 b1 b2 b3).extractLsb' 8 8 = b1 :=
    (BitVec.extractLsb'_append_eq_of_le (Nat.le_refl 8)).trans BitVec.extractLsb'_append_eq_right
  have field2 : (le32 b0 b1 b2 b3).extractLsb' 16 8 = b2 :=
    (BitVec.extractLsb'_append_eq_of_le (show 8 ≤ 16 by decide)).trans
      ((BitVec.extractLsb'_append_eq_of_le (Nat.le_refl 8)).trans BitVec.extractLsb'_append_eq_right)
  have field3 : (le32 b0 b1 b2 b3).extractLsb' 24 8 = b3 :=
    (BitVec.extractLsb'_append_eq_of_le (show 8 ≤ 24 by decide)).trans
      ((BitVec.extractLsb'_append_eq_of_le (show 8 ≤ 16 by decide)).trans BitVec.extractLsb'_append_eq_left)
  rw [bytesLE32, field0, field1, field2, field3]

/-- The bytes of the word a buffer holds at `a` are the buffer's bytes there. -/
theorem bytesLE32_word (m : Memory) (a : Nat) : bytesLE32 (Memory.word m a) = Memory.bytes m a 4 :=
  bytesLE32_le32 _ _ _ _

theorem bytesLE32_inj {v w : Word} : bytesLE32 v = bytesLE32 w ↔ v = w := by
  refine ⟨fun h => ?_, congrArg bytesLE32⟩
  simp only [bytesLE32, List.cons.injEq, and_true] at h
  obtain ⟨h0, h1, h2, h3⟩ := h
  rw [← le32_bytesLE32 v, h0, h1, h2, h3, le32_bytesLE32]

theorem bytesLE32_append_inj {v w : Word} {bs cs : List Byte} :
    bytesLE32 v ++ bs = bytesLE32 w ++ cs ↔ v = w ∧ bs = cs := by
  refine ⟨fun h => ?_, fun ⟨hword, hrest⟩ => by rw [hword, hrest]⟩
  obtain ⟨hword, hrest⟩ := List.append_inj h rfl
  exact ⟨bytesLE32_inj.1 hword, hrest⟩

/-! ## Packing and unpacking (41_header_codec.md R200–R202) -/

/-- The six field words a header buffer holds behind its sync word. -/
def headerWords (m : Memory) : HdrWords :=
  { f0 := Memory.word m 4, f1 := Memory.word m 8, f2 := Memory.word m 12, f3 := Memory.word m 16,
    f4 := Memory.word m 20, f5 := Memory.word m 24 }

theorem unpack_of_sync {m : Memory} {sync : Word} (h : Memory.word m 0 = sync) : unpack m sync = some (headerWords m) :=
  if_pos h

theorem unpack_of_ne_sync {m : Memory} {sync : Word} (h : Memory.word m 0 ≠ sync) : unpack m sync = none :=
  if_neg h

theorem unpack_eq_some_iff {m : Memory} {sync : Word} {f : HdrWords} :
    unpack m sync = some f ↔ Memory.word m 0 = sync ∧ headerWords m = f := by
  by_cases h : Memory.word m 0 = sync
  · rw [unpack_of_sync h, Option.some.injEq, and_iff_right h]
  · simp [unpack_of_ne_sync h, h]

/-- Packing the words a buffer holds gives its first 28 bytes. -/
theorem pack_headerWords (m : Memory) : pack (Memory.word m 0) (headerWords m) = Memory.bytes m 0 28 := by
  simp only [pack, headerWords, bytesLE32_word]
  rfl

theorem pack_inj {sync sync' : Word} {f f' : HdrWords} : pack sync f = pack sync' f' ↔ sync = sync' ∧ f = f' := by
  cases f
  cases f'
  simp only [pack, List.append_assoc, bytesLE32_append_inj, bytesLE32_inj, HdrWords.mk.injEq]

/-- A buffer unpacks to `f` exactly when its first 28 bytes are the packing of `f`. -/
theorem unpack_eq_some_iff_pack {m : Memory} {sync : Word} {f : HdrWords} :
    unpack m sync = some f ↔ pack sync f = Memory.bytes m 0 28 := by
  rw [unpack_eq_some_iff, ← pack_headerWords, pack_inj, eq_comm, eq_comm (a := f)]

/-- Settles O15: 28 bytes written to a buffer unpack to `f` exactly when they are the packing of `f`. -/
theorem headerRoundTrip : Obligations.HeaderRoundTrip := by
  have unpack_written : ∀ (sync : Word) (f : HdrWords) (h : List Byte), h.length = 28 →
      (unpack (Memory.writeBytes [] 0 h) sync = some f ↔ pack sync f = h) := by
    intro sync f h hlen
    rw [unpack_eq_some_iff_pack, ← hlen, Memory.bytes_writeBytes rfl]
  exact ⟨fun sync f => (unpack_written sync f _ (pack_length sync f)).2 rfl,
    fun sync f h hlen => (unpack_written sync f h hlen).1⟩

/-- Settles O16: each word of the packing is cut into the fields it carries. -/
theorem packFieldByField : Obligations.PackFieldByField := by
  intro sync f
  simp only [HdrWords.msgId, HdrWords.bodyLen, HdrWords.sequence, HdrWords.week, HdrWords.reserved, HdrWords.swVersion,
    bytesLE16_extractLsb']
  rfl

/-! ## The header operations (41_header_codec.md R203, R204) -/

theorem execHdrUnpack_of_sync {s : State} (h : Memory.word s.hbuf 0 = s.sync) :
    execHdrUnpack s = finish .hdrUnpack .ok 0 { s with hf := headerWords s.hbuf } := by
  rw [execHdrUnpack, unpack_of_sync h]

theorem execHdrUnpack_of_ne_sync {s : State} (h : Memory.word s.hbuf 0 ≠ s.sync) :
    execHdrUnpack s = finish .hdrUnpack .framing 0 s := by
  rw [execHdrUnpack, unpack_of_ne_sync h]

/-- Settles O13: the opcode byte alone is the operation, and it completes with OK. -/
theorem hdrPackResult : Obligations.HdrPackResult := by
  refine ⟨fun _ hopc => decode_of_opcode (i := .hdrPack) hopc, fun s => ?_⟩
  have hresult : resultWord 0x10#8 .ok 0 = 0x00001000#32 := by decide
  show execHdrPack s = _
  rw [execHdrPack, finish_ok (opc := 0x10#8) rfl, hresult]

/-- Settles O14: the opcode byte alone is the operation, and the sync word decides between OK and FRAMING. -/
theorem hdrUnpackResult : Obligations.HdrUnpackResult := by
  refine ⟨fun _ hopc => decode_of_opcode (i := .hdrUnpack) hopc, fun s => ?_⟩
  show execHdrUnpack s = _
  by_cases hsync : Memory.word s.hbuf 0 = s.sync
  · rw [if_pos hsync, execHdrUnpack_of_sync hsync]
    exact finish_ok (opc := 0x11#8) rfl 0 _
  · rw [if_neg hsync, execHdrUnpack_of_ne_sync hsync]
    exact finish_error (opc := 0x11#8) (c := .framing) rfl (by decide) 0 s

end Sys2Proof.Machine
end

section
/-! PROOFS of 42_frame_scanner.md. One equation per receive state for a byte taken there; then spans of bytes: junk, a header, the
bytes after it. The statements about whole frames are assembled from the spans. -/

namespace Sys2Proof.Machine

/-! ## When RXE takes a byte (42_frame_scanner.md R221) -/

theorem rxReady_iff (s : State) : rxReady s = true ↔ s.rx.state ≠ .hunt ∨ s.ctrl.getLsbD 0 = true := by
  rw [rxReady, rxActive_eq, Bool.or_eq_true, decide_eq_true_iff, rxEn]

theorem rxeStep_of_idle {s : State} (hst : s.rx.state = .hunt) (hen : s.ctrl.getLsbD 0 = false) : rxeStep s = s :=
  if_neg (mt (rxReady_iff s).1 (by rw [hst, hen]; decide))

theorem rxeStep_of_no_byte {s : State} (h : s.env.rxStream = []) : rxeStep s = s := by
  rcases rxeStep_cases s with ⟨b, bs, _, hcons, _⟩ | heq
  · rw [h] at hcons
    cases hcons
  · exact heq

theorem rxeStep_takes_byte {s : State} {b : Byte} {bs : List Byte} (h : s.env.rxStream = b :: bs)
    (hready : s.rx.state ≠ .hunt ∨ s.ctrl.getLsbD 0 = true) :
    rxeStep s = rxByte b { s with env := { s.env with rxStream := bs } } := by
  rw [rxeStep, if_pos ((rxReady_iff s).2 hready), h]

/-- Settles O42: the engine is ready inside a frame or with RX_EN, and the environment's turns only write their own field. -/
theorem receiveEnable : Obligations.ReceiveEnable :=
  fun _ => ⟨rfl, rxeStep_of_idle, rxeStep_of_no_byte, fun _ _ => rxeStep_takes_byte, fun _ => rfl, fun _ => rfl⟩

/-! ## One byte (42_frame_scanner.md R223 to R226, 43_dispatcher.md R270, R271) -/

/-- A failed attempt clears the frame; with RESYNC_FIX a byte equal to SYNC0 is the first byte of the next one. -/
theorem restart_eq (b : Byte) (s : State) :
    restart b s = if s.ctrl.getLsbD 3 = true ∧ b = s.sync.extractLsb' 0 8 then
        { s with rx := { Rx.cleared with state := .sync2, hcnt := 1, hbuf := Memory.write [] 0 b } }
      else { s with rx := Rx.cleared } := by
  simp only [restart, Bool.and_eq_true, beq_iff_eq]
  rfl

/-- Where each byte of a body goes, buffer by buffer. -/
theorem bodyTaken_eq {r : Rx} (hcls : r.cls = .order ∨ r.cls = .telem) (b : Byte) :
    bodyTaken b r = { r with
      crc := if r.pos < r.consume - 4 then crcStep r.crc b else r.crc
      rcrc := if r.pos < r.consume - 4 then r.rcrc else Memory.write r.rcrc (r.pos - (r.consume - 4)) b
      resp := if r.cls = .order ∧ r.pos < 4 then Memory.write r.resp r.pos b else r.resp
      text :=
        if r.cls = .order ∧ 4 ≤ r.pos ∧ r.pos < 4 + r.textLen ∧ r.pos - 4 < 256 then Memory.write r.text (r.pos - 4) b
        else r.text
      tmbody := if r.cls = .telem ∧ r.pos < r.bodyLen.toNat ∧ r.pos < 112 then Memory.write r.tmbody r.pos b else r.tmbody
      pos := r.pos + 1 } := by
  have hcrc : bodyCrc b r = { r with
      crc := if r.pos < r.consume - 4 then crcStep r.crc b else r.crc
      rcrc := if r.pos < r.consume - 4 then r.rcrc else Memory.write r.rcrc (r.pos - (r.consume - 4)) b } := by
    unfold bodyCrc
    split <;> rfl
  rw [bodyTaken, hcrc]
  rcases hcls with hcls | hcls
  · by_cases hresp : r.pos < 4
    · simp [bodyStore, hcls, hresp, show ¬4 ≤ r.pos by omega]
    · by_cases htext : r.pos < 4 + r.textLen ∧ r.pos - 4 < 256
      · simp [bodyStore, hcls, hresp, htext, show 4 ≤ r.pos by omega]
      · simp [bodyStore, hcls, hresp, htext]
  · by_cases hbody : r.pos < r.bodyLen.toNat ∧ r.pos < 112
    · simp [bodyStore, hcls, hbody]
    · simp [bodyStore, hcls, hbody]

/-- Settles O40: each state's byte, with the restart and the body's buffers said once for all states that use them. -/
theorem receiveByteSteps : Obligations.ReceiveByteSteps := by
  intro b s
  refine ⟨fun hst => ?hunt, fun hst => ?sync2, fun hst => ?sync3, fun hst _ hcls => ?body, fun hst => ?discard⟩
  case hunt =>
    rw [rxByte_hunt hst]
    rfl
  case sync2 =>
    rw [rxByte_sync2 hst, sync2Byte, restart_eq]
    rfl
  case sync3 =>
    rw [rxByte_sync3 hst, sync3Byte, restart_eq]
    rfl
  case body => rw [rxByte_body hst, bodyByte_eq, bodyTaken_eq hcls]
  case discard =>
    rw [rxByte_discard hst, discardByte_eq]
    rfl

/-! ## The header (42_frame_scanner.md R227 to R229) -/

theorem hdrByte_inside {s : State} (h : s.rx.hcnt + 1 ≠ 28) (b : Byte) :
    hdrByte b s = { s with rx := { s.rx with
      hbuf := Memory.write s.rx.hbuf s.rx.hcnt b, hcnt := s.rx.hcnt + 1 } } :=
  if_neg h

theorem hdrByte_done {s : State} (h : s.rx.hcnt + 1 = 28) (b : Byte) :
    hdrByte b s = headerDone { s with rx := { s.rx with hbuf := Memory.write s.rx.hbuf s.rx.hcnt b, hcnt := 28 } } := by
  exact (if_pos h).trans (by rw [h])

theorem headerDone_of_unpack {s : State} {f : HdrWords} (h : unpack s.rx.hbuf s.sync = some f) :
    headerDone s = classify (headerTaken f s) := by
  rw [headerDone, h]

theorem headerDone_of_sync {s : State} (h : Memory.word s.rx.hbuf 0 = s.sync) :
    headerDone s = classify (headerTaken (headerWords s.rx.hbuf) s) :=
  headerDone_of_unpack (unpack_of_sync h)

theorem headerDone_of_ne_sync {s : State} (h : Memory.word s.rx.hbuf 0 ≠ s.sync) :
    headerDone s = clearFrame (event .framing s) := by
  rw [headerDone, unpack_of_ne_sync h]

/-- `classify` leaves HDR, and neither RH nor the count of frames is its to write. -/
theorem classify_leaves_hdr (s : State) :
    (classify s).rh = s.rh ∧ (classify s).cnt.frames = s.cnt.frames ∧ (classify s).rx.state ≠ .hdr := by
  rcases classify_cases s with ⟨r, rfl, heq⟩ | ⟨r, rfl, heq | heq⟩ | ⟨r, rfl, heq | heq⟩ | ⟨n, _, heq⟩ | heq <;>
    rw [heq] <;> exact ⟨rfl, rfl, ScanState.noConfusion⟩

/-- Settles O41: before the 28th byte the header only grows; with it, the first word decides between FRAMING and `classify`. -/
theorem headerCompletion : Obligations.HeaderCompletion := by
  intro b s hst
  rw [rxByte_hdr hst]
  refine ⟨fun hn => hdrByte_inside hn b, fun hn hsync => ?mismatch, fun hn hsync => ?valid⟩
  case mismatch =>
    rw [hdrByte_done hn, headerDone_of_ne_sync]
    · rfl
    · exact hsync
  case valid =>
    rw [hdrByte_done hn, headerDone_of_sync]
    · exact ⟨rfl, classify_leaves_hdr _⟩
    · exact hsync

/-! ## Junk (42_frame_scanner.md R231) -/

theorem rxBytes_append (bs cs : List Byte) (s : State) : rxBytes (bs ++ cs) s = rxBytes cs (rxBytes bs s) := by
  induction bs generalizing s with
  | nil => rfl
  | cons b bs ih => exact ih (rxByte b s)

theorem huntByte_sync0 {b : Byte} {s : State} (h : b = sync0 s) : huntByte b s = takeSync 0 .sync2 b s := if_pos h

theorem huntByte_junk {b : Byte} {s : State} (h : b ≠ sync0 s) : huntByte b s = event .desync s := if_neg h

/-- Settles O43, by induction on the junk: each byte raises DESYNC and leaves the engine in HUNT. -/
theorem junkIsSkipped : Obligations.JunkIsSkipped := by
  intro j
  induction j with
  | nil =>
    intro s _ _
    simp [rxBytes]
  | cons b j ih =>
    intro s hst hjunk
    obtain ⟨hb, hrest⟩ := List.forall_mem_cons.1 hjunk
    have hsticky : (if j = [] then s.sticky ||| 0x00000100#32 else s.sticky ||| 0x00000100#32 ||| 0x00000100#32) =
        s.sticky ||| 0x00000100#32 := by
      rw [BitVec.or_assoc, BitVec.or_self, ite_self]
    have hcount : s.cnt.desync + 1#32 + BitVec.ofNat 32 j.length = s.cnt.desync + BitVec.ofNat 32 (j.length + 1) := by
      rw [BitVec.add_assoc, BitVec.add_comm 1#32, BitVec.ofNat_add]
    rw [rxBytes, rxByte_hunt hst, huntByte_junk hb, ih (event .desync s) hst hrest,
      if_neg (List.cons_ne_nil b j), List.length_cons, ← hcount, ← hsticky]
    rfl

/-- What the engine holds after junk `j` without a complete sync marker: at most the beginning of a marker, which is then the
end of `j` (42_frame_scanner.md R231 (b)). -/
inductive SyncProgress (j : List Byte) (s : State) : Prop where
  | none (hrx : s.rx = Rx.cleared)
  | one (hrx : s.rx = .atHeader .sync2 (Memory.write [] 0 (sync0 s)) 1) (hend : [sync0 s] <:+ j)
  | two (m : Memory) (hrx : s.rx = .atHeader .sync3 m 2) (hend : [sync0 s, sync1 s] <:+ j)

theorem restart_sync0 {b : Byte} {s : State} (hfix : resyncFix s = true) (hb : b = sync0 s) :
    restart b s = takeSync 0 .sync2 b (clearFrame s) :=
  if_pos (by simp [hfix, hb])

/-- A byte that fails starts the next attempt, if it is SYNC0. -/
theorem SyncProgress.restart {s : State} (hfix : resyncFix s = true) (j : List Byte) (b : Byte) :
    SyncProgress (j ++ [b]) (restart b s) := by
  by_cases hb : b = sync0 s
  · rw [restart_sync0 hfix hb]
    exact .one (by rw [hb]; rfl) ⟨j, by rw [hb]; rfl⟩
  · have hcleared : Machine.restart b s = clearFrame s := if_neg (by simp [hb])
    rw [hcleared]
    exact .none rfl

theorem SyncProgress.rxByte {j : List Byte} {s : State} (h : SyncProgress j s) (hfix : resyncFix s = true) (b : Byte)
    (hmarker : ¬[sync0 s, sync1 s, sync2 s] <:+ j ++ [b]) : SyncProgress (j ++ [b]) (rxByte b s) := by
  cases h with
  | none hrx =>
    rw [rxByte_hunt (by rw [hrx]; rfl)]
    by_cases hb : b = sync0 s
    · rw [huntByte_sync0 hb]
      exact .one (by rw [takeSync_rx, hrx, hb]; rfl) ⟨j, by rw [hb]; rfl⟩
    · rw [huntByte_junk hb]
      exact .none hrx
  | one hrx hend =>
    rw [rxByte_sync2 (by rw [hrx]; rfl), sync2Byte]
    split
    · rename_i hb
      obtain ⟨i, rfl⟩ := hend
      exact .two _ (takeSync_atHeader hrx 1 .sync3 b) ⟨i, by rw [hb, List.append_assoc]; rfl⟩
    · exact .restart (s := event .desync s) hfix j b
  | two m hrx hend =>
    rw [rxByte_sync3 (by rw [hrx]; rfl), sync3Byte]
    split
    · rename_i hb
      obtain ⟨i, rfl⟩ := hend
      exact absurd ⟨i, by rw [hb]; simp⟩ hmarker
    · exact .restart (s := event .desync s) hfix j b

theorem SyncProgress.scanning {j : List Byte} {s : State} (h : SyncProgress j s) :
    s.rx.state = .hunt ∨ s.rx.state = .sync2 ∨ s.rx.state = .sync3 := by
  cases h with
  | none hrx => exact .inl (by rw [hrx]; rfl)
  | one hrx _ => exact .inr (.inl (by rw [hrx]; rfl))
  | two _ hrx _ => exact .inr (.inr (by rw [hrx]; rfl))

/-- Looking for a header writes neither SYNC nor CTRL. -/
theorem rxByte_scanning_settings {s : State} (hst : s.rx.state = .hunt ∨ s.rx.state = .sync2 ∨ s.rx.state = .sync3)
    (b : Byte) : (rxByte b s).sync = s.sync ∧ (rxByte b s).ctrl = s.ctrl := by
  have restart_settings : ∀ t, (restart b t).sync = t.sync ∧ (restart b t).ctrl = t.ctrl := by
    intro t
    rcases restart_cases b t with heq | ⟨_, _, heq⟩ <;> rw [heq] <;> exact ⟨rfl, rfl⟩
  rcases hst with hst | hst | hst
  · rw [rxByte_hunt hst, huntByte]
    split <;> exact ⟨rfl, rfl⟩
  · rw [rxByte_sync2 hst, sync2Byte]
    split
    · exact ⟨rfl, rfl⟩
    · exact restart_settings _
  · rw [rxByte_sync3 hst, sync3Byte]
    split
    · exact ⟨rfl, rfl⟩
    · exact restart_settings _

theorem syncBytes_congr {s t : State} (h : t.sync = s.sync) : sync0 t = sync0 s ∧ sync1 t = sync1 s ∧ sync2 t = sync2 s := by
  simp only [sync0, sync1, sync2, h, and_self]

theorem rxBytes_junk {j : List Byte} {s : State} (hrx : s.rx = Rx.cleared) (hfix : resyncFix s = true)
    (hmarker : ¬[sync0 s, sync1 s, sync2 s] <:+: j) :
    SyncProgress j (rxBytes j s) ∧ (rxBytes j s).sync = s.sync ∧ (rxBytes j s).ctrl = s.ctrl := by
  induction j using List.reverseRecOn with
  | nil => exact ⟨.none hrx, rfl, rfl⟩
  | append_singleton j b ih =>
    obtain ⟨hprogress, hsync, hctrl⟩ := ih fun h => hmarker (h.trans ⟨[], [b], rfl⟩)
    obtain ⟨h0, h1, h2⟩ := syncBytes_congr hsync
    obtain ⟨hsync', hctrl'⟩ := rxByte_scanning_settings hprogress.scanning b
    rw [rxBytes_append]
    refine ⟨hprogress.rxByte (by rwa [resyncFix, hctrl]) b ?_, hsync'.trans hsync, hctrl'.trans hctrl⟩
    rw [h0, h1, h2]
    exact fun h => hmarker h.isInfix

/-- With distinct sync bytes SYNC0 goes on with no attempt, so it starts the next one. -/
theorem SyncProgress.takes_sync0 {j : List Byte} {s : State} (h : SyncProgress j s) (hfix : resyncFix s = true)
    (h01 : sync0 s ≠ sync1 s) (h02 : sync0 s ≠ sync2 s) :
    (Machine.rxByte (sync0 s) s).rx = .atHeader .sync2 (Memory.write [] 0 (sync0 s)) 1 := by
  have hrestart := restart_sync0 (b := sync0 s) (s := event .desync s) hfix rfl
  cases h with
  | none hrx =>
    rw [rxByte_hunt (by rw [hrx]; rfl), huntByte_sync0 rfl, takeSync_rx, hrx]
    rfl
  | one hrx _ =>
    rw [rxByte_sync2 (by rw [hrx]; rfl), sync2Byte, if_neg h01, hrestart]
    rfl
  | two m hrx _ =>
    rw [rxByte_sync3 (by rw [hrx]; rfl), sync3Byte, if_neg h02, hrestart]
    rfl

/-- Settles O44: what the junk leaves is the beginning of a marker, and SYNC0 ends that attempt and starts the frame's. -/
theorem resyncKeepsFrame : Obligations.ResyncKeepsFrame := by
  intro j s hrx hfix h01 h02 _ hmarker
  obtain ⟨hprogress, hsync, hctrl⟩ := rxBytes_junk hrx hfix hmarker
  obtain ⟨h0, h1, h2⟩ := syncBytes_congr hsync
  rw [rxBytes_append, ← h0]
  exact hprogress.takes_sync0 (by rwa [resyncFix, hctrl]) (by rwa [h0, h1]) (by rwa [h0, h2])

/-! ## A whole header (42_frame_scanner.md R223 to R229) -/

/-- The rest of a header, taken in HDR, ends with its validation. -/
theorem rxBytes_header_rest {bs : List Byte} {s : State} {m : Memory} {n : Nat} (hrx : s.rx = .atHeader .hdr m n)
    (hne : bs ≠ []) (hlen : n + bs.length = 28) :
    rxBytes bs s = headerDone { s with rx := .atHeader .hdr (Memory.writeBytes m n bs) 28 } := by
  induction bs generalizing s m n with
  | nil => exact absurd rfl hne
  | cons b bs ih =>
    rw [List.length_cons] at hlen
    rw [rxBytes, rxByte_hdr (by rw [hrx]; rfl)]
    by_cases hlast : bs = []
    · subst hlast
      obtain rfl : n = 27 := by simpa using hlen
      exact hdrByte_last hrx b
    · have hinside : n + 1 ≠ 28 := by
        have hpos := List.length_pos_iff.2 hlast
        omega
      rw [hdrByte_collect hrx hinside, ih rfl hlast (by omega)]
      rfl

/-- The sync marker, taken in HUNT, leads to HDR. -/
theorem rxBytes_marker {s : State} (hrx : s.rx = Rx.cleared) :
    (rxBytes [sync0 s, sync1 s, sync2 s] s) =
      { s with rx := Rx.atHeader .hdr (Memory.writeBytes [] 0 [sync0 s, sync1 s, sync2 s]) 3 } := by
  have first : rxByte (sync0 s) s = takeSync 0 .sync2 (sync0 s) s :=
    (rxByte_hunt (by rw [hrx]; rfl) _).trans (huntByte_sync0 rfl)
  have second : rxByte (sync1 s) (takeSync 0 .sync2 (sync0 s) s) =
      takeSync 1 .sync3 (sync1 s) (takeSync 0 .sync2 (sync0 s) s) := (rxByte_sync2 rfl _).trans (if_pos rfl)
  have third : rxByte (sync2 s) (takeSync 1 .sync3 (sync1 s) (takeSync 0 .sync2 (sync0 s) s)) =
      takeSync 2 .hdr (sync2 s) (takeSync 1 .sync3 (sync1 s) (takeSync 0 .sync2 (sync0 s) s)) :=
    (rxByte_sync3 rfl _).trans (if_pos rfl)
  simp only [rxBytes, first, second, third]
  simp only [takeSync, hrx]
  rfl

/-- 28 bytes that begin with the sync marker are collected from HUNT and validated. -/
theorem rxBytes_header {h : List Byte} {s : State} (hrx : s.rx = Rx.cleared) (hlen : h.length = 28)
    (hmarker : [sync0 s, sync1 s, sync2 s] <+: h) :
    rxBytes h s = headerDone { s with rx := Rx.atHeader .hdr (Memory.writeBytes [] 0 h) 28 } := by
  obtain ⟨rest, rfl⟩ := hmarker
  rw [List.length_append] at hlen
  have hne : rest ≠ [] := by
    rintro rfl
    cases hlen
  rw [rxBytes_append, rxBytes_marker hrx, rxBytes_header_rest rfl hne hlen]
  rfl

theorem pack_begins_with_marker (s : State) (f : HdrWords) : [sync0 s, sync1 s, sync2 s] <+: pack s.sync f := by
  simp only [pack, List.append_assoc]
  exact ⟨hdrLen s :: _, rfl⟩

/-- A header that unpacks to `f` is taken and classified. -/
theorem headerDone_atHeader {s : State} {m : Memory} {f : HdrWords} (h : unpack m s.sync = some f) :
    headerDone { s with rx := Rx.atHeader .hdr m 28 } = classify (headerTaken f { s with rx := Rx.atHeader .hdr m 28 }) :=
  headerDone_of_unpack (s := { s with rx := Rx.atHeader .hdr m 28 }) h

/-- The header of a wire frame is taken and classified. -/
theorem rxBytes_pack {s : State} (hrx : s.rx = Rx.cleared) (f : HdrWords) :
    ∃ m, Memory.bytes m 0 28 = pack s.sync f ∧
      rxBytes (pack s.sync f) s = classify (headerTaken f { s with rx := Rx.atHeader .hdr m 28 }) := by
  have hbytes : Memory.bytes (Memory.writeBytes [] 0 (pack s.sync f)) 0 28 = pack s.sync f :=
    Memory.bytes_writeBytes rfl 0 (pack s.sync f)
  refine ⟨_, hbytes, ?_⟩
  exact (rxBytes_header hrx (pack_length s.sync f) (pack_begins_with_marker s f)).trans
    (headerDone_atHeader (unpack_eq_some_iff_pack.2 hbytes.symm))

/-! ## The bytes after the header (43_dispatcher.md R270, R272) -/

/-- The receive state after the bytes `bs` of a body, before any `frame_end`. -/
def takeBody : List Byte → Rx → Rx
  | [], r => r
  | b :: bs, r => takeBody bs (bodyTaken b r)

/-- The bytes that end a frame are all taken before `frame_end`. -/
theorem rxBytes_body {bs : List Byte} {s : State} (hst : s.rx.state = .body) (hne : bs ≠ [])
    (hlen : s.rx.pos + bs.length = s.rx.consume) : rxBytes bs s = frameEnd { s with rx := takeBody bs s.rx } := by
  induction bs generalizing s with
  | nil => exact absurd rfl hne
  | cons b bs ih =>
    rw [List.length_cons] at hlen
    rw [rxBytes, rxByte_body hst, bodyByte_eq]
    by_cases hlast : bs = []
    · subst hlast
      exact if_pos hlen
    · have hinside : s.rx.pos + 1 ≠ s.rx.consume := by
        have hpos := List.length_pos_iff.2 hlast
        omega
      obtain ⟨hst', _, _, _, _, _, _, hcons, _, _, hpos⟩ := bodyTaken_frame b s.rx
      rw [if_neg hinside, ih (hst'.trans hst) hlast (by dsimp only; omega)]
      rfl

/-- The fields of a frame that its header fixes are those of `r₀`. -/
structure SameFrame (r₀ r : Rx) : Prop where
  msgId : r.msgId = r₀.msgId
  msgType : r.msgType = r₀.msgType
  bodyLen : r.bodyLen = r₀.bodyLen
  cls : r.cls = r₀.cls
  consume : r.consume = r₀.consume
  textLen : r.textLen = r₀.textLen
  deliver : r.deliver = r₀.deliver

theorem SameFrame.refl (r : Rx) : SameFrame r r := ⟨rfl, rfl, rfl, rfl, rfl, rfl, rfl⟩

theorem SameFrame.bodyTaken {r₀ r : Rx} (h : SameFrame r₀ r) (b : Byte) : SameFrame r₀ (bodyTaken b r) := by
  obtain ⟨_, _, _, hid, htype, hlen, hcls, hcons, htext, hdel, _⟩ := bodyTaken_frame b r
  exact ⟨hid.trans h.msgId, htype.trans h.msgType, hlen.trans h.bodyLen, hcls.trans h.cls, hcons.trans h.consume,
    htext.trans h.textLen, hdel.trans h.deliver⟩

theorem SameFrame.takeBody {r₀ r : Rx} (h : SameFrame r₀ r) (bs : List Byte) : SameFrame r₀ (takeBody bs r) := by
  induction bs generalizing r with
  | nil => exact h
  | cons b bs ih => exact ih (h.bodyTaken b)

theorem bodyTaken_pos (b : Byte) (r : Rx) : (bodyTaken b r).pos = r.pos + 1 := rfl

/-- The CRC runs over the bytes before the trailer. -/
theorem takeBody_crc {r₀ r : Rx} (hcls : r₀.cls = .order ∨ r₀.cls = .telem) (h : SameFrame r₀ r) (bs : List Byte) :
    (takeBody bs r).crc = crcUpdate r.crc (bs.take (r₀.consume - 4 - r.pos)) := by
  induction bs generalizing r with
  | nil => rw [List.take_nil]; rfl
  | cons b bs ih =>
    rw [takeBody, ih (h.bodyTaken b), bodyTaken_pos, bodyTaken_eq (h.cls ▸ hcls), h.consume]
    dsimp only
    by_cases hin : r.pos < r₀.consume - 4
    · obtain ⟨k, hk⟩ : ∃ k, r₀.consume - 4 - r.pos = k + 1 := ⟨r₀.consume - 4 - r.pos - 1, by omega⟩
      rw [if_pos hin, hk, List.take_succ_cons, show r₀.consume - 4 - (r.pos + 1) = k by omega]
      rfl
    · simp [hin, show r₀.consume - 4 - r.pos = 0 by omega, show r₀.consume - 4 - (r.pos + 1) = 0 by omega]

/-- In the frame `r₀` the buffer stores the bytes at positions `lo` to `hi` after the header, and no others. -/
def StoresSpan (buf : Rx → Memory) (lo hi : Nat) (r₀ : Rx) : Prop :=
  ∀ (b : Byte) (r : Rx), SameFrame r₀ r → r.pos < r₀.consume →
    buf (bodyTaken b r) = if lo ≤ r.pos ∧ r.pos < hi then Memory.write (buf r) (r.pos - lo) b else buf r

/-- Of the bytes `bs` the buffer takes those that stand in its span, and each at its place. -/
theorem StoresSpan.takeBody_from {buf : Rx → Memory} {lo hi : Nat} {r₀ r : Rx} (hbuf : StoresSpan buf lo hi r₀)
    (h : SameFrame r₀ r) {bs : List Byte} (hlen : r.pos + bs.length ≤ r₀.consume) :
    buf (takeBody bs r) =
      Memory.writeBytes (buf r) (r.pos - lo) ((bs.drop (lo - r.pos)).take (hi - max lo r.pos)) := by
  induction bs generalizing r with
  | nil => rw [List.drop_nil, List.take_nil]; rfl
  | cons b bs ih =>
    rw [List.length_cons] at hlen
    rw [takeBody, ih (h.bodyTaken b) (by rw [bodyTaken_pos]; omega), hbuf b r h (by omega), bodyTaken_pos]
    rcases Nat.lt_or_ge r.pos lo with hbefore | hfrom
    · obtain ⟨k, hk⟩ : ∃ k, lo - r.pos = k + 1 := ⟨lo - r.pos - 1, by omega⟩
      rw [if_neg (by omega), hk, List.drop_succ_cons, show lo - (r.pos + 1) = k by omega, max_eq_left hbefore.le,
        max_eq_left hbefore, show r.pos + 1 - lo = 0 by omega, show r.pos - lo = 0 by omega]
    · rw [show lo - r.pos = 0 by omega, show lo - (r.pos + 1) = 0 by omega, max_eq_right hfrom,
        max_eq_right (Nat.le_succ_of_le hfrom), List.drop_zero, List.drop_zero]
      rcases Nat.lt_or_ge r.pos hi with hin | hafter
      · obtain ⟨k, hk⟩ : ∃ k, hi - r.pos = k + 1 := ⟨hi - r.pos - 1, by omega⟩
        rw [if_pos ⟨hfrom, hin⟩, hk, List.take_succ_cons, show hi - (r.pos + 1) = k by omega,
          show r.pos + 1 - lo = r.pos - lo + 1 by omega]
        rfl
      · rw [if_neg (by omega), show hi - r.pos = 0 by omega, show hi - (r.pos + 1) = 0 by omega, List.take_zero,
          List.take_zero]
        rfl

/-- The buffer after the bytes of a frame holds the part of them that belongs to it. -/
theorem StoresSpan.takeBody {buf : Rx → Memory} {lo hi : Nat} {r : Rx} (hbuf : StoresSpan buf lo hi r) (hpos : r.pos = 0)
    {pre mid post : List Byte} (hpre : pre.length = lo) (hmid : lo + mid.length = hi)
    (hlen : (pre ++ (mid ++ post)).length ≤ r.consume) :
    buf (takeBody (pre ++ (mid ++ post)) r) = Memory.writeBytes (buf r) 0 mid := by
  rw [hbuf.takeBody_from (.refl r) (by omega), hpos, Nat.zero_sub, Nat.sub_zero, Nat.max_zero, List.drop_left' hpre,
    List.take_left' (by omega)]

section
variable {r : Rx}

theorem storesSpan_rcrc (hcls : r.cls = .order ∨ r.cls = .telem) : StoresSpan Rx.rcrc (r.consume - 4) r.consume r := by
  intro b r' h hpos
  rw [bodyTaken_eq (h.cls ▸ hcls), h.consume]
  by_cases hin : r'.pos < r.consume - 4
  · simp [hin, Nat.not_le.2 hin]
  · simp [hin, hpos, Nat.not_lt.1 hin]

theorem storesSpan_resp (hcls : r.cls = .order) : StoresSpan Rx.resp 0 4 r := by
  intro b r' h _
  rw [bodyTaken_eq (.inl (h.cls.trans hcls)), h.cls, hcls]
  simp

theorem storesSpan_text (hcls : r.cls = .order) (hlen : r.textLen ≤ 256) : StoresSpan Rx.text 4 (4 + r.textLen) r := by
  intro b r' h _
  have hmax : r'.pos < 4 + r.textLen → r'.pos - 4 < 256 := by omega
  rw [bodyTaken_eq (.inl (h.cls.trans hcls)), h.cls, hcls, h.textLen]
  simp [and_iff_left_of_imp hmax]

theorem storesSpan_tmbody (hcls : r.cls = .telem) (hlen : r.bodyLen.toNat = 112) : StoresSpan Rx.tmbody 0 112 r := by
  intro b r' h _
  rw [bodyTaken_eq (.inr (h.cls.trans hcls)), h.cls, hcls, h.bodyLen, hlen]
  simp

end

/-! ## A whole frame (30_encoding.md R130, R133) -/

/-- The header `h` is taken, and the `n` bytes of a body that is stored are next. -/
structure BodyNext (h : List Byte) (n : Nat) (r : Rx) : Prop where
  state : r.state = .body
  cls : r.cls = .order ∨ r.cls = .telem
  pos : r.pos = 0
  consume : r.consume = n + 4
  crc : r.crc = crc h
  rcrc : r.rcrc = []

/-- After a body and a trailer that is the CRC, the received trailer and the CRC agree. -/
theorem takeBody_sealed {h body : List Byte} {r : Rx} (hnext : BodyNext h body.length r) :
    rcOf (takeBody (body ++ bytesLE32 (crc (h ++ body))) r) = crc (h ++ body) ∧
    (takeBody (body ++ bytesLE32 (crc (h ++ body))) r).crc = crc (h ++ body) := by
  have hcons := hnext.consume
  constructor
  · have hrcrc := (storesSpan_rcrc hnext.cls).takeBody hnext.pos (pre := body) (mid := bytesLE32 (crc (h ++ body)))
      (post := []) (by omega) (by rw [bytesLE32_length]; omega) (by simp [hcons])
    rw [List.append_nil, hnext.rcrc] at hrcrc
    rw [rcOf, hrcrc]
    exact Memory.word_writeWord rfl 0 _
  · rw [takeBody_crc hnext.cls (.refl r), hnext.pos, List.take_left' (by omega), hnext.crc, crc_eq_crcUpdate, crc_eq_crcUpdate,
      crcUpdate_append]

theorem frameEnd_of_crc {s : State} (h : rcOf s.rx = s.rx.crc) : frameEnd s = clearFrame (deliverFrame s) :=
  if_neg (by simp [h])

/-- The state in which the header `f` has been taken and the frame stands at `r`. -/
def inFrame (f : HdrWords) (r : Rx) (s : State) : State :=
  { s with rh := f, cnt := { s.cnt with frames := s.cnt.frames + 1 }, rx := r }

/-- A wire frame whose header leads to BODY is delivered, whatever CRC_CHECK is. -/
theorem rxBytes_wireFrame {f : HdrWords} {body : List Byte} {s : State} {r : Rx}
    (hheader : rxBytes (pack s.sync (withBodyLen f body.length)) s = inFrame (withBodyLen f body.length) r s)
    (hnext : BodyNext (pack s.sync (withBodyLen f body.length)) body.length r) :
    ∃ trailer, trailer.length = 4 ∧
      rcOf (takeBody (body ++ trailer) r) = crc (pack s.sync (withBodyLen f body.length) ++ body) ∧
      rxBytes (wireFrame s.sync f body) s =
        clearFrame (deliverFrame (inFrame (withBodyLen f body.length) (takeBody (body ++ trailer) r) s)) := by
  obtain ⟨hrc, hcrc⟩ := takeBody_sealed hnext
  refine ⟨_, bytesLE32_length _, hrc, ?_⟩
  rw [wireFrame, sealFrame, List.append_assoc, rxBytes_append, hheader, rxBytes_body hnext.state (by simp [bytesLE32])
    (by simp [inFrame, hnext.pos, hnext.consume]), frameEnd_of_crc]
  · rfl
  · exact hrc.trans hcrc.symm

/-- The length the header of a wire frame carries. -/
theorem withBodyLen_bodyLen (f : HdrWords) {n : Nat} (hn : n < 2 ^ 16) :
    ((withBodyLen f n).f1.extractLsb' 0 16).toNat = n := by
  have hfield : (withBodyLen f n).f1.extractLsb' 0 16 = BitVec.ofNat 16 n := BitVec.extractLsb'_append_eq_right
  rw [hfield, BitVec.toNat_ofNat, Nat.mod_eq_of_lt hn]

/-! ### An order frame (43_dispatcher.md R263, 44_correlator.md R304) -/

/-- The header `h` of the order `f` is taken, and its response and `n` bytes of text are next. -/
structure OrderNext (h : List Byte) (f : HdrWords) (n : Nat) (r : Rx) : Prop extends BodyNext h (4 + n) r where
  isOrder : r.cls = .order
  textLen : r.textLen = n
  msgId : r.msgId = f.msgId
  msgType : r.msgType = f.msgType
  resp : r.resp = []
  text : r.text = []

theorem rxBytes_order_header {f : HdrWords} {n : Nat} {s : State} (hrx : s.rx = Rx.cleared) (hn : 4 + n < 2 ^ 16)
    (hcls : classOf s f.msgId f.msgType = .order) :
    ∃ r, OrderNext (pack s.sync (withBodyLen f (4 + n))) f n r ∧
      rxBytes (pack s.sync (withBodyLen f (4 + n))) s = inFrame (withBodyLen f (4 + n)) r s := by
  obtain ⟨m, hm, hheader⟩ := rxBytes_pack hrx (withBodyLen f (4 + n))
  have hlen := withBodyLen_bodyLen f hn
  have htext : ((withBodyLen f (4 + n)).f1.extractLsb' 0 16).toNat - 4 = n := by omega
  refine ⟨_, ⟨⟨rfl, .inl rfl, rfl, ?_, congrArg crc hm, rfl⟩, rfl, htext, rfl, rfl, rfl, rfl⟩,
    hheader.trans (classify_order_body hcls (.inl ?_))⟩
  · show _ - 4 + 8 = 4 + n + 4
    rw [headerTaken_rx, htext]
    omega
  · rw [headerTaken_rx, hlen]
    omega

/-- The response and the text of an order are in their buffers once all its bytes are taken. -/
theorem OrderNext.takeBody {h : List Byte} {f : HdrWords} {text : List Byte} {r : Rx} (hnext : OrderNext h f text.length r)
    (htext : text.length ≤ 256) (resp : Word) {trailer : List Byte} (htrailer : trailer.length = 4) :
    Memory.word (takeBody (bytesLE32 resp ++ text ++ trailer) r).resp 0 = resp ∧
    (takeBody (bytesLE32 resp ++ text ++ trailer) r).text = Memory.writeBytes [] 0 text := by
  have hcons := hnext.consume
  have htextLen := hnext.textLen
  rw [List.append_assoc]
  constructor
  · have hresp := (storesSpan_resp hnext.isOrder).takeBody hnext.pos (pre := []) (mid := bytesLE32 resp)
      (post := text ++ trailer) rfl rfl (by simp; omega)
    rw [List.nil_append, hnext.resp] at hresp
    rw [hresp]
    exact Memory.word_writeWord rfl 0 resp
  · rw [(storesSpan_text hnext.isOrder (by omega)).takeBody hnext.pos rfl (by omega) (by simp; omega), hnext.text]

theorem deliverFrame_order {s : State} (hcls : s.rx.cls = .order) : deliverFrame s = deposit (rcOf s.rx) s := by
  rw [deliverFrame, hcls]

theorem deposit_held {s : State} (hvalid : s.slotValid = false) (htext : s.rx.textLen ≤ 256) (rc : Word) :
    deposit rc s = heldOrder rc s := by
  rcases deposit_cases rc s with ⟨hfull, _⟩ | ⟨_, hlong, _⟩ | ⟨_, _, heq⟩
  · rw [hvalid] at hfull
    cases hfull
  · exact absurd hlong (Nat.not_lt.2 htext)
  · exact heq

/-- A text cut to its own length reads as its bytes, and 0 from its end on. -/
theorem read_truncate_writeBytes (text : List Byte) (htext : text.length ≤ 256) (a : Nat) :
    Memory.read (Memory.truncate (Memory.writeBytes [] 0 text) (min text.length 256)) a = text.getD a 0#8 := by
  rw [Memory.read_truncate (Memory.writeBytes_wf rfl), Memory.read_writeBytes rfl, min_eq_left htext]
  by_cases ha : a < text.length
  · simp [ha]
  · simp [ha]

/-- Settles O46: the header leads to BODY, the body fills the buffers, and the end of the frame finds the slot empty. -/
theorem orderFrameReachesSlot : Obligations.OrderFrameReachesSlot := by
  intro f resp text s hrx hvalid htext hcls
  have hlen : (bytesLE32 resp ++ text).length = 4 + text.length := by simp
  obtain ⟨r, hnext, hheader⟩ := rxBytes_order_header (n := text.length) hrx (by omega) hcls
  rw [← hlen] at hheader
  obtain ⟨trailer, htrailer, hrc, hframe⟩ := rxBytes_wireFrame hheader (by rw [hlen]; exact hnext.toBodyNext)
  have hsame := (SameFrame.refl r).takeBody (bytesLE32 resp ++ text ++ trailer)
  obtain ⟨hresp, htaken⟩ := hnext.takeBody htext resp htrailer
  have htextLen := hsame.textLen.trans hnext.textLen
  generalize takeBody (bytesLE32 resp ++ text ++ trailer) r = r' at *
  have hheld := deposit_held (s := inFrame (withBodyLen f (bytesLE32 resp ++ text).length) r' s) hvalid
    (htextLen.trans_le htext)
  rw [deliverFrame_order (hsame.cls.trans hnext.isOrder), hheld] at hframe
  dsimp only
  rw [hframe]
  refine ⟨rfl, rfl, ?_, congrArg (BitVec.ofNat 32) htextLen, hresp, hrc, fun a => ?_, rfl, rfl, rfl, rfl, rfl⟩
  · show 0#8 ++ r'.msgType ++ r'.msgId = _
    rw [hsame.msgType, hsame.msgId, hnext.msgType, hnext.msgId]
  · show Memory.read (Memory.truncate r'.text (min r'.textLen 256)) a = _
    rw [htaken, htextLen, read_truncate_writeBytes text htext]

/-! ### A telemetry frame (43_dispatcher.md R265, 45_telemetry.md R331) -/

/-- The header `h` of a telemetry frame is taken, and its 112 body bytes are next. -/
structure TelemNext (h : List Byte) (r : Rx) : Prop extends BodyNext h 112 r where
  isTelem : r.cls = .telem
  bodyLen : r.bodyLen.toNat = 112
  deliver : r.deliver = true
  tmbody : r.tmbody = []

theorem rxBytes_telem_header {f : HdrWords} {s : State} (hrx : s.rx = Rx.cleared)
    (hcls : classOf s f.msgId f.msgType = .telem) :
    ∃ r, TelemNext (pack s.sync (withBodyLen f 112)) r ∧
      rxBytes (pack s.sync (withBodyLen f 112)) s = inFrame (withBodyLen f 112) r s := by
  obtain ⟨m, hm, hheader⟩ := rxBytes_pack hrx (withBodyLen f 112)
  have hlen := withBodyLen_bodyLen f (n := 112) (by decide)
  exact ⟨_, ⟨⟨rfl, .inr rfl, rfl, congrArg (· + 4) hlen, congrArg crc hm, rfl⟩, rfl, hlen, rfl, rfl⟩,
    hheader.trans (classify_telem hcls hlen)⟩

/-- The body of a telemetry frame is in its buffer once all its bytes are taken. -/
theorem TelemNext.takeBody {h : List Byte} {body : List Byte} {r : Rx} (hnext : TelemNext h r) (hbody : body.length = 112)
    {trailer : List Byte} (htrailer : trailer.length = 4) :
    (takeBody (body ++ trailer) r).tmbody = Memory.writeBytes [] 0 body := by
  have htaken := (storesSpan_tmbody hnext.isTelem hnext.bodyLen).takeBody hnext.pos (pre := []) (mid := body)
    (post := trailer) rfl (by omega) (by simp [hnext.consume, hbody, htrailer])
  rwa [List.nil_append, hnext.tmbody] at htaken

theorem deliverFrame_telem {s : State} (hcls : s.rx.cls = .telem) (hdeliver : s.rx.deliver = true) :
    deliverFrame s = tmAccept (rcOf s.rx) s := by
  rw [deliverFrame, hcls]
  exact if_pos hdeliver

theorem tmAccept_room {s : State} (hroom : s.tmFifo.length < 4) (rc : Word) :
    tmAccept rc s = { s with tmFifo := s.tmFifo ++ [tmRecord rc s], tmNextSeq := s.tmNextSeq + 1 } :=
  if_neg (Nat.not_le.2 hroom)

/-- Bytes written into an empty buffer and cut to a size they fill are read back. -/
theorem bytes_truncate_writeBytes (bs : List Byte) :
    Memory.bytes (Memory.truncate (Memory.writeBytes [] 0 bs) bs.length) 0 bs.length = bs := by
  have hcut : ∀ x, x < bs.length → Memory.read (Memory.truncate (Memory.writeBytes [] 0 bs) bs.length) x =
      Memory.read (Memory.writeBytes [] 0 bs) x := by
    intro x hx
    rw [Memory.read_truncate (Memory.writeBytes_wf rfl), if_pos hx]
  rw [Memory.bytes_congr fun x _ hx => hcut x (by omega), Memory.bytes_writeBytes rfl]

/-- Settles O47: the header leads to BODY, the body fills its buffer, and the end of the frame finds room in the FIFO. -/
theorem telemetryFrameBecomesRecord : Obligations.TelemetryFrameBecomesRecord := by
  intro f body s hrx hroom hbody hcls
  obtain ⟨r, hnext, hheader⟩ := rxBytes_telem_header hrx hcls
  rw [← hbody] at hheader
  obtain ⟨trailer, htrailer, hrc, hframe⟩ := rxBytes_wireFrame hheader (by rw [hbody]; exact hnext.toBodyNext)
  have hsame := (SameFrame.refl r).takeBody (body ++ trailer)
  have htaken := hnext.takeBody hbody htrailer
  generalize takeBody (body ++ trailer) r = r' at *
  have haccepted := tmAccept_room (s := inFrame (withBodyLen f body.length) r' s) hroom
  rw [deliverFrame_telem (hsame.cls.trans hnext.isTelem) (hsame.deliver.trans hnext.deliver), haccepted] at hframe
  dsimp only
  rw [hframe]
  refine ⟨rfl, rfl, rfl, rfl, _, rfl, rfl, rfl, ?_, hbody ▸ hrc⟩
  show Memory.bytes (Memory.truncate r'.tmbody 112) 0 112 = body
  rw [htaken, ← hbody, bytes_truncate_writeBytes]

end Sys2Proof.Machine
end

section
/-! PROOFS of 43_dispatcher.md. When an entry of the dispatch table is a hit, and what the search over the table answers; the end
of a frame; then, under ALIGN, a frame's header and the span after it, from which the alignment law is assembled. -/

namespace Sys2Proof.Machine

/-! ## The dispatch lookup (43_dispatcher.md R260) -/

/-- An entry is a hit for an identifier where it is valid, its class is not reserved and it holds the identifier. -/
abbrev DtHit (e : Word) (x : Half) : Prop :=
  e.getLsbD 31 = true ∧ e.extractLsb' 16 2 ≠ 3#2 ∧ e.extractLsb' 0 16 = x

theorem DtClass.code_ne_reserved (c : DtClass) : c.code ≠ 3#2 := by cases c <;> decide

/-- A CLASS field selects the class written with it (10_state.md R62). -/
theorem dtClassOf_eq_some_iff {v : BitVec 2} {c : DtClass} : dtClassOf v = some c ↔ v = c.code := by
  revert v
  cases c <;> decide

/-- A CLASS field selects no class where it is reserved (10_state.md R62). -/
theorem dtClassOf_eq_none_iff {v : BitVec 2} : dtClassOf v = none ↔ v = 3#2 := by
  revert v
  decide

theorem dtMatch_eq_some_iff {e : Word} {x : Half} {c : DtClass} :
    dtMatch e x = some c ↔ DtHit e x ∧ c.code = e.extractLsb' 16 2 := by
  have hreserved := c.code_ne_reserved
  unfold dtMatch
  split
  · rename_i h
    obtain ⟨hvalid, hid⟩ : e.getLsbD 31 = true ∧ e.extractLsb' 0 16 = x := by simpa using h
    rw [dtClassOf_eq_some_iff]
    exact ⟨fun hc => ⟨⟨hvalid, hc ▸ hreserved, hid⟩, hc.symm⟩, fun ⟨_, hc⟩ => hc.symm⟩
  · rename_i h
    exact iff_of_false nofun fun ⟨⟨hvalid, _, hid⟩, _⟩ => h (by simp [hvalid, hid])

theorem dtMatch_eq_none_iff {e : Word} {x : Half} : dtMatch e x = none ↔ ¬DtHit e x := by
  unfold dtMatch
  split
  · rename_i h
    obtain ⟨hvalid, hid⟩ : e.getLsbD 31 = true ∧ e.extractLsb' 0 16 = x := by simpa using h
    rw [dtClassOf_eq_none_iff]
    exact ⟨fun hcls ⟨_, hne, _⟩ => hne hcls, fun hmiss => by_contra fun hne => hmiss ⟨hvalid, hne, hid⟩⟩
  · rename_i h
    exact iff_of_true rfl fun ⟨hvalid, _, hid⟩ => h (by simp [hvalid, hid])

/-- The search answers nothing where no entry matches. -/
theorem dtSearch_eq_none_iff {x : Half} {es : List Word} {k : Nat} :
    dtSearch x es k = none ↔ ∀ e ∈ es, dtMatch e x = none := by
  induction es generalizing k with
  | nil => simp [dtSearch]
  | cons e es ih =>
    rw [dtSearch, List.forall_mem_cons]
    cases hm : dtMatch e x with
    | none => simp [ih]
    | some c => simp

/-- The search from index `k` answers the first entry that matches. -/
theorem dtSearch_eq_some_iff {x : Half} {es : List Word} {k n : Nat} {c : DtClass} :
    dtSearch x es k = some (n, c) ↔
      ∃ (i : Nat) (h : i < es.length), k + i = n ∧ dtMatch es[i] x = some c ∧
        ∀ j (hj : j < i), dtMatch (es[j]'(hj.trans h)) x = none := by
  induction es generalizing k with
  | nil => simp [dtSearch]
  | cons e es ih =>
    rw [dtSearch]
    cases hm : dtMatch e x with
    | none =>
      rw [ih]
      constructor
      · rintro ⟨i, hi, hn, hi', hbelow⟩
        refine ⟨i + 1, Nat.succ_lt_succ hi, by omega, hi', fun j hj => ?_⟩
        cases j with
        | zero => exact hm
        | succ j => exact hbelow j (Nat.lt_of_succ_lt_succ hj)
      · rintro ⟨i, hi, hn, hi', hbelow⟩
        cases i with
        | zero => exact nomatch hm.symm.trans hi'
        | succ i =>
          exact ⟨i, Nat.lt_of_succ_lt_succ hi, by omega, hi', fun j hj => hbelow (j + 1) (Nat.succ_lt_succ hj)⟩
    | some d =>
      constructor
      · rintro ⟨⟩
        exact ⟨0, Nat.succ_pos _, rfl, hm, fun j hj => absurd hj (Nat.not_lt_zero j)⟩
      · rintro ⟨i, hi, rfl, hi', hbelow⟩
        cases i with
        | zero => rw [Option.some.inj (hm.symm.trans hi')]; rfl
        | succ i => exact nomatch hm.symm.trans (hbelow 0 (Nat.succ_pos i))

theorem dtLookup_eq_none_iff {s : State} {x : Half} : dtLookup s x = none ↔ ∀ k : Fin 8, ¬DtHit s.dt[k] x := by
  simp only [dtLookup, dtSearch_eq_none_iff, dtMatch_eq_none_iff, List.forall_mem_iff_getElem, Vector.length_toList,
    Vector.getElem_toList]
  exact ⟨fun h k => h k k.isLt, fun h i hi => h ⟨i, hi⟩⟩

theorem dtLookup_eq_some_iff {s : State} {x : Half} {n : Nat} {c : DtClass} :
    dtLookup s x = some (n, c) ↔ ∃ k : Fin 8, k.val = n ∧ (DtHit s.dt[k] x ∧ c.code = s.dt[k].extractLsb' 16 2) ∧
      ∀ j, j < k → ¬DtHit s.dt[j] x := by
  simp only [dtLookup, dtSearch_eq_some_iff, dtMatch_eq_some_iff, dtMatch_eq_none_iff, Vector.length_toList,
    Vector.getElem_toList, Nat.zero_add]
  constructor
  · rintro ⟨i, hi, hn, hhit, hbelow⟩
    exact ⟨⟨i, hi⟩, hn, hhit, fun j hj => hbelow j hj⟩
  · rintro ⟨k, hn, hhit, hbelow⟩
    exact ⟨k, k.isLt, hn, hhit, fun j hj => hbelow ⟨j, hj.trans k.isLt⟩ hj⟩

/-- Settles O32: the search over the eight entries, with the class read off the entry that it answers. -/
theorem lookupLowestMatch : Obligations.LookupLowestMatch := by
  refine fun s x => ⟨dtLookup_eq_none_iff, fun n c => dtLookup_eq_some_iff.trans (exists_congr fun k => ?_)⟩
  constructor
  · rintro ⟨hn, ⟨hhit, hcls⟩, hbelow⟩
    refine ⟨hn, hhit, hbelow, hcls, hcls.symm.trans ?_⟩
    cases c <;> rfl
  · rintro ⟨hn, hhit, hbelow, hcls, _⟩
    exact ⟨hn, ⟨hhit, hcls⟩, hbelow⟩

/-! ## DT_LOOKUP (43_dispatcher.md R280) -/

theorem execDtLookup_none {s : State} {x : Half} (h : dtLookup s x = none) :
    execDtLookup x s = finish (.dtLookup x) .notFound 0 s := by
  rw [execDtLookup, h]

theorem execDtLookup_some {s : State} {x : Half} {k : Nat} {c : DtClass} (h : dtLookup s x = some (k, c)) :
    execDtLookup x s = finish (.dtLookup x) .ok (lookupArg k c) s := by
  rw [execDtLookup, h]

/-- Settles O33: the operand is the field H, and the lookup decides between NOT_FOUND and OK. -/
theorem dtLookupResult : Obligations.DtLookupResult :=
  ⟨fun _ hopc => decode_of_opcode (i := .dtLookup 0#16) hopc, fun _ _ =>
    ⟨fun h => (execDtLookup_none h).trans (finish_error (opc := 0x50#8) rfl (by decide) 0 _),
      fun _ _ h => (execDtLookup_some h).trans (finish_ok (opc := 0x50#8) rfl _ _)⟩⟩

/-! ## The end of a frame (43_dispatcher.md R272) -/

/-- An order goes to the slot, a deliverable record to the FIFO, and nothing else is delivered. -/
theorem deliverFrame_eq (s : State) :
    deliverFrame s =
      if s.rx.cls = .order then deposit (rcOf s.rx) s
      else if s.rx.cls = .telem ∧ s.rx.deliver = true then tmAccept (rcOf s.rx) s
      else s := by
  unfold deliverFrame
  cases s.rx.cls <;> simp

/-- Settles O35: the trailer decides whether the frame is delivered, and its class what is. -/
theorem frameEndDelivery : Obligations.FrameEndDelivery := by
  intro s
  show frameEnd s = if crcCheck s = true ∧ rcOf s.rx ≠ s.rx.crc then _ else _
  unfold frameEnd
  by_cases hbad : crcCheck s = true ∧ rcOf s.rx ≠ s.rx.crc
  · rw [if_pos hbad, if_pos (by simpa using hbad)]
    rfl
  · rw [if_neg hbad, if_neg (by simpa using hbad), deliverFrame_eq, apply_ite clearFrame, apply_ite clearFrame]
    rfl

/-! ## The header under ALIGN (43_dispatcher.md R262, R274) -/

/-- Under ALIGN every class consumes the body and the trailer and nothing else. -/
theorem classify_aligned {s : State} (halign : alignOn s = true) :
    ((classify s).rx.state = .body ∨ (classify s).rx.state = .discard) ∧
      (classify s).rx.consume = s.rx.bodyLen.toNat + 4 := by
  cases hcls : frameClass s with
  | order =>
    by_cases hlen : 4 ≤ s.rx.bodyLen.toNat
    · rw [classify_order_body hcls (.inl hlen)]
      exact ⟨.inl rfl, show _ - 4 + 8 = _ + 4 by omega⟩
    · rw [classify_order_short hcls (Nat.lt_of_not_le hlen) halign]
      exact ⟨.inr rfl, rfl⟩
  | telem =>
    by_cases hlen : s.rx.bodyLen.toNat = 112
    · rw [classify_telem hcls hlen]
      exact ⟨.inl rfl, rfl⟩
    · rw [classify_telem_badLength hcls hlen]
      exact ⟨.inl rfl, rfl⟩
  | info =>
    rw [classify_info hcls, halign]
    exact ⟨.inr rfl, rfl⟩
  | noClass =>
    rw [classify_unrec_aligned hcls halign]
    exact ⟨.inr rfl, rfl⟩
  | skip =>
    rw [classify_eq, hcls, halign]
    exact ⟨.inr rfl, rfl⟩

/-- A 16-bit field in the low half of a word is the word's first two bytes. -/
theorem extractLsb'_le32_low (b0 b1 b2 b3 : Byte) : (le32 b0 b1 b2 b3).extractLsb' 0 16 = le16 b0 b1 := by
  rw [le32, BitVec.append_assoc]
  exact BitVec.extractLsb'_append_eq_right

/-- Bytes that begin with the sync word begin with the sync marker. -/
theorem begins_with_marker {bs : List Byte} {s : State} (hsync : bs.take 4 = bytesLE32 s.sync) :
    [sync0 s, sync1 s, sync2 s] <+: bs :=
  (show _ <+: bs.take 4 from hsync ▸ ⟨[hdrLen s], rfl⟩).trans (List.take_prefix 4 bs)

/-- A whole header has been taken from `s`, and `n` further bytes of its frame are next. -/
structure FrameNext (n : Nat) (s t : State) : Prop where
  state : t.rx.state = .body ∨ t.rx.state = .discard
  left : t.rx.consume - t.rx.pos = n
  frames : t.cnt.frames = s.cnt.frames + 1

/-- Under ALIGN a header that begins with the sync word is followed by a body of the length it holds and by a trailer. -/
theorem rxBytes_aligned_header {h : List Byte} {s : State} (hrx : s.rx = Rx.cleared) (halign : alignOn s = true)
    (hlen : h.length = 28) (hsync : h.take 4 = bytesLE32 s.sync) :
    FrameNext ((le16 (h.getD 8 0#8) (h.getD 9 0#8)).toNat + 4) s (rxBytes h s) := by
  rw [rxBytes_header hrx hlen (begins_with_marker hsync)]
  generalize hm : Memory.writeBytes [] 0 h = m
  have hbytes : Memory.bytes m 0 28 = h := by rw [← hm, ← hlen, Memory.bytes_writeBytes rfl]
  have hword : Memory.word m 0 = s.sync := by
    rw [← bytesLE32_inj, bytesLE32_word, ← hsync, ← hbytes]
    rfl
  have hbodyLen : (headerWords m).f1.extractLsb' 0 16 = le16 (h.getD 8 0#8) (h.getD 9 0#8) := by
    rw [← hbytes, Memory.bytes_getD m 0 28 8 (by decide), Memory.bytes_getD m 0 28 9 (by decide)]
    exact extractLsb'_le32_low _ _ _ _
  rw [headerDone_atHeader (unpack_of_sync hword), ← hbodyLen]
  generalize ht : headerTaken (headerWords m) { s with rx := Rx.atHeader .hdr m 28 } = t
  obtain ⟨hst, hcons⟩ := classify_aligned (s := t) (by rw [← ht]; exact halign)
  obtain ⟨_, hframes, _⟩ := classify_leaves_hdr t
  refine ⟨hst, ?_, hframes.trans ?_⟩
  · rw [hcons, classify_pos, ← ht]
    rfl
  · rw [← ht]
    rfl

/-! ## The bytes after the header (43_dispatcher.md R270 to R272) -/

/-- The end of a frame counts no frame: its events are CRC_ERR, ORDER_OVERRUN, TEXT_TRUNC and TM_OVERFLOW. -/
theorem frameEnd_frames (s : State) : (frameEnd s).cnt.frames = s.cnt.frames := by
  rcases frameEnd_cases s with heq | ⟨_, heq⟩ | ⟨_, _, heq⟩ | heq <;> rw [heq]
  · rfl
  · rcases deposit_cases (rcOf s.rx) s with ⟨_, heq⟩ | ⟨_, _, heq⟩ | ⟨_, _, heq⟩ <;> rw [heq] <;> rfl
  · rcases tmAccept_cases (rcOf s.rx) s with ⟨_, heq⟩ | ⟨_, heq⟩ <;> rw [heq] <;> rfl
  · rfl

theorem rxByte_frame_frames {s : State} (hst : s.rx.state = .body ∨ s.rx.state = .discard) (b : Byte) :
    (rxByte b s).cnt.frames = s.cnt.frames := by
  rcases hst with hst | hst
  · rw [rxByte_body hst, bodyByte_eq]
    split
    · exact frameEnd_frames _
    · rfl
  · rw [rxByte_discard hst, discardByte_eq]
    split <;> rfl

/-- The last of the bytes a frame consumes clears it, and none of them counts a frame. -/
theorem rxBytes_frame_rest {bs : List Byte} {s : State} (hst : s.rx.state = .body ∨ s.rx.state = .discard)
    (hne : bs ≠ []) (hlen : s.rx.consume - s.rx.pos = bs.length) :
    (rxBytes bs s).rx = Rx.cleared ∧ (rxBytes bs s).cnt.frames = s.cnt.frames := by
  induction bs generalizing s with
  | nil => exact absurd rfl hne
  | cons b bs ih =>
    rw [List.length_cons] at hlen
    rw [rxBytes, ← rxByte_frame_frames hst b]
    by_cases hlast : bs = []
    · subst hlast
      rw [List.length_nil] at hlen
      exact ⟨rxByte_frame_last hst (by omega) b, rfl⟩
    · have hpos := List.length_pos_iff.2 hlast
      obtain ⟨hst', hcons, hpos'⟩ := rxByte_frame_inside hst (by omega) b
      exact ih (by rwa [hst']) hlast (by omega)

/-! ## The alignment law (43_dispatcher.md R274) -/

theorem rxBytes_first_sync {s : State} (hrx : s.rx = Rx.cleared) :
    rxBytes [sync0 s] s = takeSync 0 .sync2 (sync0 s) s :=
  (rxByte_hunt (by rw [hrx]; rfl) _).trans (huntByte_sync0 rfl)

theorem rxBytes_two_syncs {s : State} (hrx : s.rx = Rx.cleared) :
    rxBytes [sync0 s, sync1 s] s = takeSync 1 .sync3 (sync1 s) (takeSync 0 .sync2 (sync0 s) s) := by
  rw [← List.singleton_append, rxBytes_append, rxBytes_first_sync hrx]
  exact (rxByte_sync2 (s := takeSync 0 .sync2 (sync0 s) s) rfl _).trans (if_pos rfl)

/-- Bytes that do not complete a header leave the engine in HDR. -/
theorem rxBytes_header_collect {bs : List Byte} {s : State} {m : Memory} {n : Nat} (hrx : s.rx = .atHeader .hdr m n)
    (hlen : n + bs.length < 28) : (rxBytes bs s).rx.state = .hdr := by
  induction bs generalizing s m n with
  | nil => rw [rxBytes, hrx]; rfl
  | cons b bs ih =>
    rw [List.length_cons] at hlen
    rw [rxBytes, rxByte_hdr (by rw [hrx]; rfl), hdrByte_collect hrx (by omega)]
    exact ih rfl (by omega)

/-- Inside a header that begins with the sync marker the engine is not in HUNT. -/
theorem rxBytes_header_part {bs h : List Byte} {s : State} (hrx : s.rx = Rx.cleared)
    (hmarker : [sync0 s, sync1 s, sync2 s] <+: bs) (hpart : h <+: bs) (hne : h ≠ []) (hlen : h.length < 28) :
    (rxBytes h s).rx.state ≠ .hunt := by
  obtain ⟨rest, rfl⟩ := hmarker
  rcases h with _ | ⟨b0, _ | ⟨b1, _ | ⟨b2, h⟩⟩⟩
  · exact absurd rfl hne
  · obtain rfl : b0 = sync0 s := by simpa using hpart
    rw [rxBytes_first_sync hrx]
    exact ScanState.noConfusion
  · obtain ⟨rfl, rfl⟩ : b0 = sync0 s ∧ b1 = sync1 s := by simpa using hpart
    rw [rxBytes_two_syncs hrx]
    exact ScanState.noConfusion
  · obtain ⟨rfl, rfl, rfl, _⟩ : b0 = sync0 s ∧ b1 = sync1 s ∧ b2 = sync2 s ∧ h <+: rest := by simpa using hpart
    have hsplit : sync0 s :: sync1 s :: sync2 s :: h = [sync0 s, sync1 s, sync2 s] ++ h := rfl
    rw [hsplit, List.length_append] at hlen
    rw [hsplit, rxBytes_append, rxBytes_marker hrx, rxBytes_header_collect rfl hlen]
    exact ScanState.noConfusion

/-- Settles O45: the header leads to the frame's own length, and the bytes after it count that down. -/
theorem alignmentLaw : Obligations.AlignmentLaw := by
  intro bs s hrx halign hsync hlen
  have hmarker := begins_with_marker hsync
  obtain ⟨h, rest, rfl, hh⟩ : ∃ h rest, bs = h ++ rest ∧ h.length = 28 :=
    ⟨_, _, (List.take_append_drop 28 bs).symm, by rw [List.length_take]; omega⟩
  rw [List.take_append_of_le_length (by omega)] at hsync
  rw [List.length_append, List.getD_append _ _ _ _ (by omega), List.getD_append _ _ _ _ (by omega)] at hlen
  obtain ⟨hst, hleft, hframes⟩ := rxBytes_aligned_header hrx halign hh hsync
  refine ⟨fun k hpos hk => ?inside, ?complete⟩
  case inside =>
    rw [List.length_append] at hk
    by_cases hheader : k < 28
    · have hk' : ((h ++ rest).take k).length = k := by rw [List.length_take, List.length_append]; omega
      exact rxBytes_header_part hrx hmarker (List.take_prefix k _) (List.length_pos_iff.1 (by omega)) (by omega)
    · have hrest : (rest.take (k - 28)).length = k - 28 := by rw [List.length_take]; omega
      rw [List.take_append, List.take_of_length_le (by omega), hh, rxBytes_append, Ne,
        rxBytes_frame_hunt_iff hst (by omega) (by omega)]
      omega
  case complete =>
    have hne : rest ≠ [] := List.length_pos_iff.1 (by omega)
    rw [rxBytes_append, ← hframes]
    exact rxBytes_frame_rest hst hne (by omega)

end Sys2Proof.Machine
end

section
/-! PROOFS of 44_correlator.md. The four operations on the slot and the deposit, each case by case; then what the receive engine
leaves of the slot, and what every turn leaves of SLOT_EXPECT while a command is pending. -/

namespace Sys2Proof.Machine

/-! ## The slot operations (44_correlator.md R310 to R313) -/

theorem exec_slotArm_pending {s : State} (h : s.pending = true) (x : Half) :
    exec (.slotArm x) s = finish (.slotArm x) .busy 0 s :=
  if_pos h

theorem exec_slotArm_free {s : State} (h : s.pending = false) (x : Half) :
    exec (.slotArm x) s = finish (.slotArm x) .ok 0 { s with slotExpect := x.setWidth 32, pending := true } :=
  if_neg (ne_true_of_eq_false h)

/-- Settles O22: the operand is the field H, and PENDING decides between BUSY and OK. -/
theorem slotArmResult : Obligations.SlotArmResult := by
  refine ⟨fun _ hopc => decode_of_opcode (i := .slotArm 0) hopc, fun x s => ?_⟩
  by_cases hpending : s.pending = true
  · rw [exec_slotArm_pending hpending, if_pos hpending]
    exact finish_error (opc := 0x30#8) (c := .busy) rfl (by decide) 0 s
  · rw [exec_slotArm_free (Bool.eq_false_of_not_eq_true hpending), if_neg hpending]
    exact finish_ok (opc := 0x30#8) rfl 0 _

theorem exec_slotTake_empty {s : State} (h : s.slotValid = false) : exec .slotTake s = finish .slotTake .empty 0 s :=
  if_neg (ne_true_of_eq_false h)

theorem exec_slotTake_held {s : State} (h : s.slotValid = true) :
    exec .slotTake s = finish .slotTake (takeCode s) (tagId s) { s with slotValid := false, pending := false } :=
  if_pos h

/-- Settles O23: an empty slot answers EMPTY; a held order is taken, and the first check that fails names the code. -/
theorem slotTakeResult : Obligations.SlotTakeResult := by
  refine ⟨fun _ hopc => decode_of_opcode (i := .slotTake) hopc, fun s => ?_⟩
  have refused {c : Code} (hc : c ≠ .ok) := finish_error (i := .slotTake) (opc := 0x31#8) rfl hc
  dsimp only
  by_cases hvalid : s.slotValid = false
  · rw [exec_slotTake_empty hvalid, if_pos hvalid]
    exact refused (c := .empty) (by decide) 0 s
  rw [exec_slotTake_held (Bool.eq_true_of_not_eq_false hvalid), if_neg hvalid, takeCode]
  by_cases hpending : s.pending = false
  · rw [if_pos hpending, if_pos hpending]
    exact refused (by decide) _ _
  rw [if_neg hpending, if_neg hpending]
  by_cases htag : tagId s ≠ expectId s
  · rw [if_pos htag]
    exact (refused (by decide) _ _).trans (if_pos htag).symm
  rw [if_neg htag]
  refine Eq.trans ?_ (if_neg htag).symm
  by_cases hresp : s.slotResp ≠ 0x00000001#32
  · rw [if_pos hresp, if_pos hresp]
    exact refused (by decide) _ _
  · rw [if_neg hresp, if_neg hresp]
    exact finish_ok (opc := 0x31#8) rfl _ _

/-- Settles O24: each opcode byte alone is its operation, and both complete with OK. -/
theorem slotCancelAndFlushResult : Obligations.SlotCancelAndFlushResult :=
  ⟨fun _ hopc => decode_of_opcode (i := .slotCancel) hopc, fun _ hopc => decode_of_opcode (i := .slotFlush) hopc,
    fun _ => ⟨finish_ok (opc := 0x32#8) rfl 0 _, finish_ok (opc := 0x33#8) rfl 0 _⟩⟩

/-! ## Depositing an order (44_correlator.md R304) -/

theorem deposit_full {s : State} (hvalid : s.slotValid = true) (rc : Word) : deposit rc s = event .orderOverrun s :=
  if_pos hvalid

theorem deposit_long {s : State} (hvalid : s.slotValid = false) (htext : 256 < s.rx.textLen) (rc : Word) :
    deposit rc s = event .textTrunc (heldOrder rc s) := by
  rcases deposit_cases rc s with ⟨hfull, _⟩ | ⟨_, _, heq⟩ | ⟨_, hshort, _⟩
  · rw [hvalid] at hfull
    cases hfull
  · exact heq
  · exact absurd htext (Nat.not_lt.2 hshort)

/-- Settles O25: a full slot drops the order; an empty one holds it, its text cut to 256 bytes, and the length decides
TEXT_TRUNC. -/
theorem depositOrder : Obligations.DepositOrder := by
  refine fun rc s => ⟨fun hvalid => deposit_full hvalid rc, fun hvalid hwf =>
    ⟨Memory.truncate s.rx.text (min s.rx.textLen 256), Memory.read_truncate hwf _, ?_⟩⟩
  by_cases htext : 256 < s.rx.textLen
  · rw [deposit_long hvalid htext, if_pos htext]
    rfl
  · rw [deposit_held hvalid (Nat.not_lt.1 htext), if_neg htext]
    rfl

/-! ## What the receive engine leaves of the slot (44_correlator.md R304, R314) -/

/-- SLOT_EXPECT is as before, and so is an order already held. -/
structure SlotKept (s t : State) : Prop where
  expect : t.slotExpect = s.slotExpect
  held : s.slotValid = true → t.slotValid = true ∧ t.slotTag = s.slotTag ∧ t.slotLen = s.slotLen ∧ t.slotResp = s.slotResp ∧
    t.slotCrc = s.slotCrc ∧ t.slotText = s.slotText

/-- The receive engine's state outside the slot. -/
theorem SlotKept.outside {s : State} (st : Word) (f : HdrWords) (q : List TmEntry) (n : Word) (c : Counters) (r : Rx)
    (e : Env) :
    SlotKept s { s with sticky := st, rh := f, tmFifo := q, tmNextSeq := n, cnt := c, rx := r, env := e } :=
  ⟨rfl, fun hvalid => ⟨hvalid, rfl, rfl, rfl, rfl, rfl⟩⟩

theorem SlotKept.refl (s : State) : SlotKept s s := .outside _ _ _ _ _ _ _

theorem SlotKept.event {s t : State} (h : SlotKept s t) (e : Event) : SlotKept s (event e t) := ⟨h.expect, h.held⟩

theorem SlotKept.clearFrame {s t : State} (h : SlotKept s t) : SlotKept s (clearFrame t) := ⟨h.expect, h.held⟩

theorem SlotKept.restart {s t : State} (h : SlotKept s t) (b : Byte) : SlotKept s (restart b t) := by
  rcases restart_cases b t with heq | ⟨_, _, heq⟩ <;> rw [heq] <;> exact ⟨h.expect, h.held⟩

/-- The slot is written only where it is empty. -/
theorem SlotKept.deposit (rc : Word) (s : State) : SlotKept s (deposit rc s) := by
  refine ⟨?_, fun hvalid => deposit_full hvalid rc ▸ ((SlotKept.refl s).event _).held hvalid⟩
  rcases deposit_cases rc s with ⟨_, heq⟩ | ⟨_, _, heq⟩ | ⟨_, _, heq⟩ <;> rw [heq] <;> rfl

theorem SlotKept.tmAccept (rc : Word) (s : State) : SlotKept s (tmAccept rc s) := by
  rcases tmAccept_cases rc s with ⟨_, heq⟩ | ⟨_, heq⟩ <;> rw [heq] <;> exact .outside _ _ _ _ _ _ _

theorem SlotKept.frameEnd (s : State) : SlotKept s (frameEnd s) := by
  rcases frameEnd_cases s with heq | ⟨_, heq⟩ | ⟨_, _, heq⟩ | heq <;> rw [heq]
  · exact ((SlotKept.refl s).event _).clearFrame
  · exact (SlotKept.deposit _ s).clearFrame
  · exact (SlotKept.tmAccept _ s).clearFrame
  · exact (SlotKept.refl s).clearFrame

theorem SlotKept.headerDone {s t : State} (h : SlotKept s t) : SlotKept s (headerDone t) := by
  rcases headerDone_cases t with ⟨_, heq⟩ | ⟨f, _, heq⟩ <;> rw [heq]
  · exact (h.event _).clearFrame
  · rcases classify_cases (headerTaken f t) with ⟨_, _, heq⟩ | ⟨_, _, heq | heq⟩ | ⟨_, _, heq | heq⟩ | ⟨_, _, heq⟩ | heq <;>
      rw [heq] <;> exact ⟨h.expect, h.held⟩

theorem SlotKept.rxByte (b : Byte) (s : State) : SlotKept s (rxByte b s) := by
  cases hst : s.rx.state with
  | hunt =>
    rw [rxByte_hunt hst, huntByte]
    split <;> exact .outside _ _ _ _ _ _ _
  | sync2 =>
    rw [rxByte_sync2 hst, sync2Byte]
    split
    · exact .outside _ _ _ _ _ _ _
    · exact ((SlotKept.refl s).event _).restart b
  | sync3 =>
    rw [rxByte_sync3 hst, sync3Byte]
    split
    · exact .outside _ _ _ _ _ _ _
    · exact ((SlotKept.refl s).event _).restart b
  | hdr =>
    rw [rxByte_hdr hst]
    by_cases hlast : s.rx.hcnt + 1 = 28
    · rw [hdrByte_done hlast]
      exact .headerDone (.outside _ _ _ _ _ _ _)
    · rw [hdrByte_inside hlast]
      exact .outside _ _ _ _ _ _ _
  | body =>
    rw [rxByte_body hst, bodyByte_eq]
    split
    · have hend := SlotKept.frameEnd { s with rx := bodyTaken b s.rx }
      exact ⟨hend.expect, hend.held⟩
    · exact .outside _ _ _ _ _ _ _
  | discard =>
    rw [rxByte_discard hst, discardByte_eq]
    split <;> exact .outside _ _ _ _ _ _ _

/-- Settles O27: of what a byte can do, only a deposit writes the slot, and a full slot drops the order. -/
theorem heldOrderIsStable : Obligations.HeldOrderIsStable :=
  fun b s => (SlotKept.rxByte b s).held

/-! ## One outstanding command (44_correlator.md R302, R314) -/

theorem exec_txIssue_pending {s : State} (h : s.pending = true) (n : Nat) :
    exec (.txIssue n) s = finish (.txIssue n) .busy 0 s := by
  show execTxIssue n s = _
  rw [execTxIssue, if_pos h, ite_self]

/-- Where the outcome is a next state, SLOT_EXPECT is there as in `s`. -/
def ExpectKept (s : State) (o : Out) : Prop := ∀ t, o = .next t → t.slotExpect = s.slotExpect

theorem ExpectKept.next {s t : State} (h : t.slotExpect = s.slotExpect) : ExpectKept s (.next t) := by
  rintro _ ⟨⟩
  exact h

theorem ExpectKept.finish {s t : State} (h : t.slotExpect = s.slotExpect) (i : Instr) (c : Code) (a : Half) :
    ExpectKept s (finish i c a t) :=
  .next ((result_slotExpect _ c a t).trans h)

/-- Only SLOT_ARM and TX_ISSUE write SLOT_EXPECT, and both are refused while a command is pending. -/
theorem ExpectKept.exec {s : State} (hpending : s.pending = true) (i : Instr) : ExpectKept s (exec i s) := by
  cases i with
  | slotArm x => exact exec_slotArm_pending hpending x ▸ .finish rfl _ _ _
  | txIssue n => exact exec_txIssue_pending hpending n ▸ .finish rfl _ _ _
  | txSend n =>
    simp only [Machine.exec, execTxSend]
    split
    · exact .finish rfl _ _ _
    · split
      · exact .finish (txBuild_slotExpect n s) _ _ _
      · exact .finish rfl _ _ _
  | crcTxbody n =>
    simp only [Machine.exec, execCrcTxbody]
    split <;> exact .finish rfl _ _ _
  | hdrUnpack =>
    simp only [Machine.exec, execHdrUnpack]
    split <;> exact .finish rfl _ _ _
  | slotTake =>
    simp only [Machine.exec, execSlotTake]
    split <;> exact .finish rfl _ _ _
  | tmPop =>
    simp only [Machine.exec, execTmPop]
    split <;> exact .finish rfl _ _ _
  | dtLookup x =>
    simp only [Machine.exec, execDtLookup]
    split <;> exact .finish rfl _ _ _
  | nop | crcInit | crcByte _ | crcHbuf | hdrPack | slotCancel | slotFlush | scanReset | cntClear =>
    refine .finish ?_ _ _ _
    rfl

theorem ExpectKept.runCommand {s : State} (hpending : s.pending = true) (w : Word) : ExpectKept s (runCommand w s) := by
  cases hdecode : decode w with
  | ok i => exact runCommand_ok hdecode s ▸ .exec hpending i
  | error e => exact runCommand_error hdecode s ▸ .next (result_slotExpect _ _ _ s)

@[simp] theorem writeReg_slotExpect (r : Reg) (v : Word) (s : State) : (writeReg r v s).slotExpect = s.slotExpect := by
  cases r <;> rfl

@[simp] theorem rxeStep_slotExpect (s : State) : (rxeStep s).slotExpect = s.slotExpect := by
  rcases rxeStep_cases s with ⟨b, bs, _, _, heq⟩ | heq <;> rw [heq]
  exact (SlotKept.rxByte b { s with env := { s.env with rxStream := bs } }).expect

@[simp] theorem txeStep_slotExpect (s : State) : (txeStep s).slotExpect = s.slotExpect := by
  rcases txeStep_cases s with ⟨_, heq⟩ | ⟨_, heq⟩ <;> rw [heq]

theorem runTurn_slotExpect {t : Turn} {s s' : State} (hpending : s.pending = true) (ht : t ≠ .reset)
    (h : runTurn t s = .next s') : s'.slotExpect = s.slotExpect := by
  rcases runTurn_cases h with ⟨_, _, _, _, rfl⟩ | ⟨_, _, v, _, _, _, hcmd⟩ | ⟨_, _, v, _, _, _, rfl⟩ | ⟨_, rfl⟩ |
    ⟨_, rfl⟩ | ⟨_, _, rfl⟩ | ⟨_, _, rfl⟩ | ⟨hreset, _⟩
  · rfl
  · exact ExpectKept.runCommand hpending v s' hcmd
  · exact writeReg_slotExpect _ v s
  · exact rxeStep_slotExpect s
  · exact txeStep_slotExpect s
  · rfl
  · rfl
  · exact absurd hreset ht

/-- Settles O26: no turn but reset writes SLOT_EXPECT while a command is pending, and the operations that would are refused. -/
theorem oneOutstandingCommand : Obligations.OneOutstandingCommand := by
  refine fun s hpending => ⟨fun _ _ => runTurn_slotExpect hpending, fun x => ?_, fun n => ?_⟩
  · rw [exec_slotArm_pending hpending]
    exact finish_error (opc := 0x30#8) (c := .busy) rfl (by decide) 0 s
  · rw [exec_txIssue_pending hpending]
    exact finish_error (opc := 0x21#8) (c := .busy) rfl (by decide) 0 s

end Sys2Proof.Machine
end

section
/-! PROOFS of 45_telemetry.md. The FIFO and TM_NEXTSEQ as one piece of state, which few operations touch: a receive step can only
accept a record, and TM_POP is the one host operation that removes one. Acceptance, the pop and reset each keep the sequence
numbers consecutive. -/

namespace Sys2Proof.Machine

/-! ## TM_POP (45_telemetry.md R335) -/

theorem exec_tmPop_nil {s : State} (h : s.tmFifo = []) : exec .tmPop s = finish .tmPop .empty 0 s := by
  show execTmPop s = _
  rw [execTmPop, h]

theorem exec_tmPop_cons {s : State} {e : TmEntry} {rest : List TmEntry} (h : s.tmFifo = e :: rest) :
    exec .tmPop s = finish .tmPop .ok (BitVec.ofNat 16 rest.length) { s with tmFifo := rest } := by
  show execTmPop s = _
  rw [execTmPop, h]

/-- Settles O28: the opcode byte alone is the operation, and the FIFO decides between EMPTY and OK. -/
theorem tmPopResult : Obligations.TmPopResult :=
  ⟨fun _ hopc => decode_of_opcode (i := .tmPop) hopc, fun s =>
    ⟨fun hempty => (exec_tmPop_nil hempty).trans (finish_error (opc := 0x40#8) rfl (by decide) 0 s),
      fun _ _ hheld => (exec_tmPop_cons hheld).trans (finish_ok (opc := 0x40#8) rfl _ _)⟩⟩

/-! ## Accepting a record (45_telemetry.md R331) -/

theorem tmAccept_full {s : State} (hfull : 4 ≤ s.tmFifo.length) (rc : Word) : tmAccept rc s = event .tmOverflow s :=
  if_pos hfull

theorem Memory.truncate_of_within {n : Nat} {m : Memory} (h : Memory.within n m = true) : Memory.truncate m n = m :=
  List.filter_eq_self.2 (List.all_eq_true.1 h)

/-- A body within its 112 bytes enters the record as it is. -/
theorem tmRecord_of_ok {s : State} (hbody : Memory.ok 112 s.rx.tmbody = true) (rc : Word) :
    tmRecord rc s = { seq := s.tmNextSeq, time := s.env.timeIn, body := s.rx.tmbody, crc := rc } := by
  obtain ⟨_, hwithin⟩ := Memory.ok_iff.1 hbody
  rw [tmRecord, Memory.truncate_of_within hwithin]

/-- Settles O29: a full FIFO drops the record; one with room takes it as its tail. -/
theorem telemetryAccept : Obligations.TelemetryAccept :=
  fun rc s => ⟨fun hfull => tmAccept_full hfull rc, fun hroom hbody => by rw [tmAccept_room hroom, tmRecord_of_ok hbody]⟩

/-! ## The telemetry queue: the FIFO and TM_NEXTSEQ (10_state.md R58) -/

/-- The records held and the number the next one gets. -/
def tmQueue (s : State) : List TmEntry × Word := (s.tmFifo, s.tmNextSeq)

theorem tmQueue_eq_iff {s t : State} : tmQueue t = tmQueue s ↔ t.tmFifo = s.tmFifo ∧ t.tmNextSeq = s.tmNextSeq :=
  Prod.mk_inj

@[simp] theorem event_tmQueue (e : Event) (s : State) : tmQueue (event e s) = tmQueue s := rfl

@[simp] theorem clearFrame_tmQueue (s : State) : tmQueue (clearFrame s) = tmQueue s := rfl

@[simp] theorem result_tmQueue (o : Byte) (c : Code) (a : Half) (s : State) : tmQueue (result o c a s) = tmQueue s :=
  tmQueue_eq_iff.2 ⟨result_tmFifo o c a s, result_tmNextSeq o c a s⟩

@[simp] theorem txBuild_tmQueue (n : Nat) (s : State) : tmQueue (txBuild n s) = tmQueue s :=
  tmQueue_eq_iff.2 ⟨txBuild_tmFifo n s, txBuild_tmNextSeq n s⟩

@[simp] theorem afterTurn_tmQueue (s : State) : tmQueue (afterTurn s) = tmQueue s :=
  tmQueue_eq_iff.2 ⟨afterTurn_tmFifo s, afterTurn_tmNextSeq s⟩

theorem withExpect_tmQueue (s : State) (x : Word) (p : Bool) :
    tmQueue { s with slotExpect := x, pending := p } = tmQueue s := rfl

@[simp] theorem restart_tmQueue (b : Byte) (s : State) : tmQueue (restart b s) = tmQueue s := by
  rcases restart_cases b s with heq | ⟨_, _, heq⟩ <;> rw [heq] <;> rfl

@[simp] theorem deposit_tmQueue (rc : Word) (s : State) : tmQueue (deposit rc s) = tmQueue s := by
  rcases deposit_cases rc s with ⟨_, heq⟩ | ⟨_, _, heq⟩ | ⟨_, _, heq⟩ <;> rw [heq] <;> rfl

@[simp] theorem classify_tmQueue (s : State) : tmQueue (classify s) = tmQueue s := by
  rcases classify_cases s with ⟨_, _, heq⟩ | ⟨_, _, heq | heq⟩ | ⟨_, _, heq | heq⟩ | ⟨_, _, heq⟩ | heq <;> rw [heq] <;> rfl

@[simp] theorem headerDone_tmQueue (s : State) : tmQueue (headerDone s) = tmQueue s := by
  rcases headerDone_cases s with ⟨_, heq⟩ | ⟨f, _, heq⟩ <;> rw [heq]
  · rfl
  · exact classify_tmQueue (headerTaken f s)

@[simp] theorem writeReg_tmQueue (r : Reg) (v : Word) (s : State) : tmQueue (writeReg r v s) = tmQueue s := by
  cases r <;> rfl

@[simp] theorem txeStep_tmQueue (s : State) : tmQueue (txeStep s) = tmQueue s := by
  rcases txeStep_cases s with ⟨_, heq⟩ | ⟨_, heq⟩ <;> rw [heq]
  rfl

/-! ## What a receive step does to the queue (45_telemetry.md R331, R336) -/

/-- The end of a frame leaves the queue, or accepts a record. -/
theorem frameEnd_tmQueue_cases (s : State) :
    tmQueue (frameEnd s) = tmQueue s ∨ tmQueue (frameEnd s) = tmQueue (tmAccept (rcOf s.rx) s) := by
  rcases frameEnd_cases s with heq | ⟨_, heq⟩ | ⟨_, _, heq⟩ | heq <;>
    rw [heq, clearFrame_tmQueue]
  · exact .inl (event_tmQueue _ s)
  · exact .inl (deposit_tmQueue _ s)
  · exact .inr rfl
  · exact .inl rfl

/-- A byte leaves the queue, or it is the last of a frame whose record is accepted. -/
theorem rxByte_tmQueue_cases (b : Byte) (s : State) :
    tmQueue (rxByte b s) = tmQueue s ∨ ∃ rc r, tmQueue (rxByte b s) = tmQueue (tmAccept rc { s with rx := r }) := by
  cases hst : s.rx.state with
  | hunt =>
    rw [rxByte_hunt hst, huntByte]
    exact .inl (by split <;> rfl)
  | sync2 =>
    rw [rxByte_sync2 hst, sync2Byte]
    split
    · exact .inl rfl
    · exact .inl (restart_tmQueue b _)
  | sync3 =>
    rw [rxByte_sync3 hst, sync3Byte]
    split
    · exact .inl rfl
    · exact .inl (restart_tmQueue b _)
  | hdr =>
    rw [rxByte_hdr hst]
    by_cases hlast : s.rx.hcnt + 1 = 28
    · exact .inl (hdrByte_done hlast b ▸ headerDone_tmQueue _)
    · exact .inl (hdrByte_inside hlast b ▸ rfl)
  | body =>
    rw [rxByte_body hst, bodyByte_eq]
    split
    · exact (frameEnd_tmQueue_cases { s with rx := bodyTaken b s.rx }).imp_right fun heq => ⟨_, _, heq⟩
    · exact .inl rfl
  | discard =>
    rw [rxByte_discard hst, discardByte_eq]
    exact .inl (by split <;> rfl)

/-! ## What an operation does to the queue (45_telemetry.md R335) -/

/-- Where the outcome is a next state, the queue is there as in `s`. -/
def QueueKept (s : State) (o : Out) : Prop := ∀ t, o = .next t → tmQueue t = tmQueue s

theorem QueueKept.next {s t : State} (h : tmQueue t = tmQueue s) : QueueKept s (.next t) := by
  rintro _ ⟨⟩
  exact h

theorem QueueKept.finish {s t : State} (h : tmQueue t = tmQueue s) (i : Instr) (c : Code) (a : Half) :
    QueueKept s (finish i c a t) :=
  .next ((result_tmQueue _ c a t).trans h)

/-- TM_POP is the only operation that touches the queue. -/
theorem QueueKept.exec {i : Instr} (hpop : i ≠ .tmPop) (s : State) : QueueKept s (exec i s) := by
  cases i with
  | tmPop => exact absurd rfl hpop
  | crcTxbody n =>
    simp only [Machine.exec, execCrcTxbody]
    split <;> exact .finish rfl _ _ _
  | hdrUnpack =>
    simp only [Machine.exec, execHdrUnpack]
    split <;> exact .finish rfl _ _ _
  | txSend n =>
    simp only [Machine.exec, execTxSend]
    split
    · exact .finish rfl _ _ _
    · split
      · exact .finish (txBuild_tmQueue n s) _ _ _
      · exact .finish rfl _ _ _
  | txIssue n =>
    simp only [Machine.exec, execTxIssue]
    split
    · exact .finish rfl _ _ _
    · split
      · exact .finish rfl _ _ _
      · split
        · exact .finish ((withExpect_tmQueue (txBuild n s) _ true).trans (txBuild_tmQueue n s)) _ _ _
        · exact .finish rfl _ _ _
  | slotArm x =>
    simp only [Machine.exec, execSlotArm]
    split <;> exact .finish rfl _ _ _
  | slotTake =>
    simp only [Machine.exec, execSlotTake]
    split <;> exact .finish rfl _ _ _
  | dtLookup x =>
    simp only [Machine.exec, execDtLookup]
    split <;> exact .finish rfl _ _ _
  | nop | crcInit | crcByte _ | crcHbuf | hdrPack | slotCancel | slotFlush | scanReset | cntClear =>
    refine .finish (tmQueue_eq_iff.2 ⟨?_, ?_⟩) _ _ _ <;> rfl

/-! ## The head record (45_telemetry.md R332, R336) -/

theorem tmAccept_prefix (rc : Word) (s : State) : s.tmFifo <+: (tmAccept rc s).tmFifo := by
  rcases tmAccept_cases rc s with ⟨_, heq⟩ | ⟨_, heq⟩ <;> rw [heq]
  · exact List.prefix_rfl
  · exact List.prefix_append _ _

/-- Records enter at the tail only. -/
theorem rxByte_prefix (b : Byte) (s : State) : s.tmFifo <+: (rxByte b s).tmFifo := by
  rcases rxByte_tmQueue_cases b s with heq | ⟨rc, r, heq⟩ <;> rw [(tmQueue_eq_iff.1 heq).1]
  exact tmAccept_prefix rc { s with rx := r }

theorem tmHead_of_prefix {s t : State} (hne : s.tmFifo ≠ []) (hprefix : s.tmFifo <+: t.tmFifo) (f : TmEntry → Word) :
    tmHead t f = tmHead s f := by
  obtain ⟨e, rest, hs⟩ := List.exists_cons_of_ne_nil hne
  obtain ⟨q, ht⟩ := hprefix
  rw [hs, List.cons_append] at ht
  rw [tmHead_cons hs, tmHead_cons ht.symm]

/-- Settles O30: a byte can only append to the FIFO, and the head registers show the first record. -/
theorem headRecordIsStable : Obligations.HeadRecordIsStable := by
  intro b s hne
  have hhead := tmHead_of_prefix hne (rxByte_prefix b s)
  exact ⟨hhead _, hhead _, hhead _, hhead _, fun _ => hhead _⟩

/-! ## Consecutive sequence numbers (45_telemetry.md R337) -/

/-- The records of `q` are numbered consecutively mod 2^32, the last just below `n`. -/
def SeqBelow (n : Word) (q : List TmEntry) : Prop :=
  ∀ (k : Nat) (h : k < q.length), q[k].seq = n - BitVec.ofNat 32 (q.length - k)

theorem seqConsecutive_iff (s : State) : SeqConsecutive s ↔ SeqBelow (tmQueue s).2 (tmQueue s).1 := Iff.rfl

theorem SeqConsecutive.congr {s t : State} (h : SeqConsecutive s) (hqueue : tmQueue t = tmQueue s) : SeqConsecutive t := by
  rwa [seqConsecutive_iff, hqueue]

theorem seqBelow_nil (n : Word) : SeqBelow n [] := fun _ h => absurd h (Nat.not_lt_zero _)

theorem seqBelow_cons {n : Word} {e : TmEntry} {q : List TmEntry} :
    SeqBelow n (e :: q) ↔ e.seq = n - BitVec.ofNat 32 (q.length + 1) ∧ SeqBelow n q := by
  have index (k : Nat) : q.length + 1 - (k + 1) = q.length - k := Nat.add_sub_add_right _ 1 _
  constructor
  · refine fun h => ⟨h 0 (Nat.succ_pos _), fun k hk => ?_⟩
    rw [← index k]
    exact h (k + 1) (Nat.succ_lt_succ hk)
  · rintro ⟨hhead, hrest⟩ k hk
    cases k with
    | zero => exact hhead
    | succ k =>
      rw [List.length_cons, index k]
      exact hrest k (Nat.lt_of_succ_lt_succ hk)

/-- One number and one place further: the distance to the next number stays. -/
theorem add_one_sub_ofNat_succ (n : Word) (k : Nat) : n + 1 - BitVec.ofNat 32 (k + 1) = n - BitVec.ofNat 32 k := by
  rw [BitVec.ofNat_add]
  exact add_sub_add_right_eq_sub n (BitVec.ofNat 32 k) 1

/-- The next number goes to the tail. -/
theorem SeqBelow.append {n : Word} {q : List TmEntry} (h : SeqBelow n q) {e : TmEntry} (he : e.seq = n) :
    SeqBelow (n + 1) (q ++ [e]) := by
  induction q with
  | nil =>
    refine seqBelow_cons.2 ⟨?_, seqBelow_nil _⟩
    rw [List.length_nil, add_one_sub_ofNat_succ, he]
    exact (sub_zero n).symm
  | cons d q ih =>
    obtain ⟨hd, hrest⟩ := seqBelow_cons.1 h
    refine seqBelow_cons.2 ⟨?_, ih hrest⟩
    rw [List.append_eq, List.length_append, List.length_singleton, add_one_sub_ofNat_succ, hd]

theorem SeqConsecutive.tmAccept {s : State} (h : SeqConsecutive s) (rc : Word) : SeqConsecutive (tmAccept rc s) := by
  rcases tmAccept_cases rc s with ⟨_, heq⟩ | ⟨_, heq⟩ <;> rw [heq]
  · exact h.congr (event_tmQueue _ s)
  · exact SeqBelow.append h rfl

theorem SeqConsecutive.rxByte {s : State} (h : SeqConsecutive s) (b : Byte) : SeqConsecutive (rxByte b s) := by
  rcases rxByte_tmQueue_cases b s with heq | ⟨rc, r, heq⟩
  · exact h.congr heq
  · have hrx : SeqConsecutive { s with rx := r } := h
    exact (hrx.tmAccept rc).congr heq

theorem SeqConsecutive.rxeStep {s : State} (h : SeqConsecutive s) : SeqConsecutive (rxeStep s) := by
  rcases rxeStep_cases s with ⟨b, bs, _, _, heq⟩ | heq <;> rw [heq]
  · have henv : SeqConsecutive { s with env := { s.env with rxStream := bs } } := h
    exact henv.rxByte b
  · exact h

/-- Where the outcome is a next state, the sequence numbers are consecutive there. -/
def SeqNext (o : Out) : Prop := ∀ t, o = .next t → SeqConsecutive t

theorem SeqConsecutive.of_queueKept {s : State} (h : SeqConsecutive s) {o : Out} (hkept : QueueKept s o) : SeqNext o :=
  fun t ht => h.congr (hkept t ht)

/-- The pop takes the head and leaves TM_NEXTSEQ (45_telemetry.md R335). -/
theorem SeqNext.tmPop {s : State} (h : SeqConsecutive s) : SeqNext (exec .tmPop s) := by
  cases hfifo : s.tmFifo with
  | nil => exact exec_tmPop_nil hfifo ▸ h.of_queueKept (.finish rfl _ _ _)
  | cons e rest =>
    have hheld : SeqBelow s.tmNextSeq (e :: rest) := hfifo ▸ h
    have hpopped : SeqConsecutive { s with tmFifo := rest } := (seqBelow_cons.1 hheld).2
    exact exec_tmPop_cons hfifo ▸ hpopped.of_queueKept (.finish rfl _ _ _)

theorem SeqNext.exec {s : State} (h : SeqConsecutive s) (i : Instr) : SeqNext (exec i s) := by
  by_cases hpop : i = .tmPop
  · exact hpop ▸ .tmPop h
  · exact h.of_queueKept (.exec hpop s)

theorem SeqNext.runCommand {s : State} (h : SeqConsecutive s) (w : Word) : SeqNext (runCommand w s) := by
  cases hdecode : decode w with
  | ok i => exact runCommand_ok hdecode s ▸ .exec h i
  | error e => exact runCommand_error hdecode s ▸ h.of_queueKept (.next (result_tmQueue _ _ _ s))

theorem SeqConsecutive.blockReset (s : State) : SeqConsecutive (blockReset s) := seqBelow_nil _

theorem SeqNext.runTurn {s : State} (h : SeqConsecutive s) (t : Turn) : SeqNext (runTurn t s) := by
  intro s' hs
  rcases runTurn_cases hs with ⟨_, _, _, _, rfl⟩ | ⟨_, _, v, _, _, _, hcmd⟩ | ⟨_, _, v, _, _, _, rfl⟩ | ⟨_, rfl⟩ |
    ⟨_, rfl⟩ | ⟨_, _, rfl⟩ | ⟨_, _, rfl⟩ | ⟨_, rfl⟩
  · exact h
  · exact SeqNext.runCommand h v s' hcmd
  · exact h.congr (writeReg_tmQueue _ v s)
  · exact h.rxeStep
  · exact h.congr (txeStep_tmQueue s)
  · exact h
  · exact h
  · exact .blockReset s

/-- Settles O31: a step is a turn on the state with that turn taken off, and every turn keeps the numbers consecutive. -/
theorem sequenceNumbersConsecutive : Obligations.SequenceNumbersConsecutive :=
  fun s s' h hs => SeqNext.runTurn (h.congr (afterTurn_tmQueue s)) _ s' hs

end Sys2Proof.Machine
end

section
/-! PROOFS of 46_transmit.md. TX_SEND and TX_ISSUE check by check, and a TXE turn; then a run of TXE turns as one span of tx_buf,
from which the frame law follows; then what every other turn leaves of the transmit engine. -/

namespace Sys2Proof.Machine

/-! ## The transmit operations (46_transmit.md R350, R351) -/

theorem txBusy_iff (s : State) : txBusy s = true ↔ s.tx.pos < s.tx.len := decide_eq_true_iff

theorem resultWord_ok (opc : Byte) (a : Half) : resultWord opc .ok a = a ++ opc ++ 0x00#8 := rfl

/-- The frame law of 46_transmit.md R352. -/
theorem txFrame_eq (s : State) (n : Nat) :
    txFrame s n = pack s.sync (withBodyLen s.hf n) ++ Memory.bytes s.txBody 0 n ++
      bytesLE32 (crc (pack s.sync (withBodyLen s.hf n) ++ Memory.bytes s.txBody 0 n)) := rfl

section
variable {s : State} {n : Nat}

theorem exec_txSend_busy (hbusy : txBusy s = true) (n : Nat) : exec (.txSend n) s = finish (.txSend n) .busy 0 s :=
  if_pos hbusy

theorem exec_txSend_range (hidle : ¬txBusy s = true) (hn : 256 < n) :
    exec (.txSend n) s = finish (.txSend n) .range 0 s :=
  (if_neg hidle).trans (if_neg (mt (countOk_iff n).1 (Nat.not_le.2 hn)))

/-- A frame of `n` body bytes is 32 + `n` bytes long. -/
theorem exec_txSend_built (hidle : ¬txBusy s = true) (hn : n ≤ 256) :
    exec (.txSend n) s = finish (.txSend n) .ok (BitVec.ofNat 16 (32 + n)) (txBuild n s) :=
  (if_neg hidle).trans (if_pos ((countOk_iff n).2 hn))

theorem exec_txIssue_busy (hbusy : txBusy s = true) (n : Nat) : exec (.txIssue n) s = finish (.txIssue n) .busy 0 s :=
  if_pos hbusy

theorem exec_txIssue_range (hidle : ¬txBusy s = true) (hfree : ¬s.pending = true) (hn : 256 < n) :
    exec (.txIssue n) s = finish (.txIssue n) .range 0 s :=
  (if_neg hidle).trans ((if_neg hfree).trans (if_neg (mt (countOk_iff n).1 (Nat.not_le.2 hn))))

/-- The command that is sent becomes the outstanding one. -/
theorem exec_txIssue_built (hidle : ¬txBusy s = true) (hfree : ¬s.pending = true) (hn : n ≤ 256) :
    exec (.txIssue n) s = finish (.txIssue n) .ok (BitVec.ofNat 16 (32 + n))
      { txBuild n s with slotExpect := (hfMsgId s.hf).setWidth 32, pending := true } :=
  (if_neg hidle).trans ((if_neg hfree).trans (if_pos ((countOk_iff n).2 hn)))

end

/-- Settles O17: the operand is the field H, and the first check that fails names the code. -/
theorem txSendResult : Obligations.TxSendResult := by
  refine ⟨fun _ hopc => decode_of_opcode (i := .txSend 0) hopc, fun n s => ?_⟩
  simp only [← txBusy_iff]
  by_cases hbusy : txBusy s = true
  · rw [exec_txSend_busy hbusy, if_pos hbusy]
    exact finish_error (opc := 0x20#8) (c := .busy) rfl (by decide) 0 s
  rw [if_neg hbusy]
  by_cases hn : 256 < n
  · rw [exec_txSend_range hbusy hn, if_pos hn]
    exact finish_error (opc := 0x20#8) (c := .range) rfl (by decide) 0 s
  · rw [exec_txSend_built hbusy (Nat.not_lt.1 hn), if_neg hn,
      finish_ok (opc := 0x20#8) rfl, resultWord_ok, txBuild, txFrame_eq, withBodyLen]

/-- Settles O18: the operand is the field H, and the first check that fails names the code. -/
theorem txIssueResult : Obligations.TxIssueResult := by
  refine ⟨fun _ hopc => decode_of_opcode (i := .txIssue 0) hopc, fun n s => ?_⟩
  have refused {c : Code} (hc : c ≠ .ok) := finish_error (i := .txIssue n) (opc := 0x21#8) rfl hc 0 s
  simp only [← txBusy_iff]
  by_cases hbusy : txBusy s = true
  · rw [exec_txIssue_busy hbusy, if_pos hbusy]
    exact refused (c := .busy) (by decide)
  rw [if_neg hbusy]
  by_cases hpending : s.pending = true
  · rw [exec_txIssue_pending hpending, if_pos hpending]
    exact refused (c := .busy) (by decide)
  rw [if_neg hpending]
  by_cases hn : 256 < n
  · rw [exec_txIssue_range hbusy hpending hn, if_pos hn]
    exact refused (c := .range) (by decide)
  · rw [exec_txIssue_built hbusy hpending (Nat.not_lt.1 hn), if_neg hn,
      finish_ok (opc := 0x21#8) rfl, resultWord_ok, txBuild, txFrame_eq, withBodyLen, hfMsgId]

/-! ## TXE turns (46_transmit.md R353) -/

/-- The state once the next `k` bytes of tx_buf have gone out. -/
def emitted (k : Nat) (s : State) : State :=
  { s with
    tx := { s.tx with pos := s.tx.pos + k }
    env := { s.env with txWire := s.env.txWire ++ Memory.bytes s.tx.buf s.tx.pos k } }

theorem emitted_txWire (k : Nat) (s : State) :
    (emitted k s).env.txWire = s.env.txWire ++ Memory.bytes s.tx.buf s.tx.pos k := rfl

theorem txBusy_emitted (k : Nat) (s : State) : txBusy (emitted k s) = true ↔ s.tx.pos + k < s.tx.len :=
  txBusy_iff (emitted k s)

theorem emitted_zero (s : State) : emitted 0 s = s := by
  simp [emitted, Memory.bytes]

/-- One byte, then `k` more. -/
theorem emitted_emitted_one (k : Nat) (s : State) : emitted k (emitted 1 s) = emitted (k + 1) s := by
  simp [emitted, Memory.bytes, Nat.add_assoc, Nat.add_comm 1 k]

theorem txeStep_of_sending {s : State} (h : s.tx.pos < s.tx.len) : txeStep s = emitted 1 s :=
  if_pos ((txBusy_iff s).2 h)

theorem txeStep_of_idle {s : State} (h : ¬s.tx.pos < s.tx.len) : txeStep s = s :=
  if_neg (mt (txBusy_iff s).1 h)

/-- Settles O19: the turn is `txeStep`, which emits one byte or is idle. -/
theorem txeStepEmits : Obligations.TxeStepEmits := by
  refine fun s => ⟨rfl, ?_⟩
  by_cases h : s.tx.pos < s.tx.len
  · rw [txeStep_of_sending h, if_pos h]
    rfl
  · rw [txeStep_of_idle h, if_neg h]

/-- While bytes of the frame are left, `k` TXE turns emit the next `k` bytes of tx_buf. -/
theorem txeSteps_eq_emitted {k : Nat} {s : State} (h : s.tx.pos + k ≤ s.tx.len) : txeSteps k s = emitted k s := by
  induction k generalizing s with
  | zero => exact (emitted_zero s).symm
  | succ k ih =>
    have hrest : (emitted 1 s).tx.pos + k ≤ (emitted 1 s).tx.len := by
      simp only [emitted]
      omega
    rw [txeSteps, txeStep_of_sending (by omega), ih hrest, emitted_emitted_one]

/-- A frame that stands at the start of tx_buf goes out whole, in as many TXE turns as it has bytes. -/
theorem txeSteps_sends_frame {frame : List Byte} {t : State} (hlen : t.tx.len = frame.length) (hpos : t.tx.pos = 0)
    (hbuf : Memory.bytes t.tx.buf 0 frame.length = frame) :
    (∀ k, k < frame.length → txBusy (txeSteps k t) = true) ∧ txBusy (txeSteps frame.length t) = false ∧
      (txeSteps frame.length t).env.txWire = t.env.txWire ++ frame := by
  have hsteps : ∀ k ≤ frame.length, txeSteps k t = emitted k t := fun k hk => txeSteps_eq_emitted (by omega)
  have hbusy : ∀ k ≤ frame.length, (txBusy (txeSteps k t) = true ↔ k < frame.length) := by
    intro k hk
    rw [hsteps k hk, txBusy_emitted, hpos, hlen, Nat.zero_add]
  refine ⟨fun k hk => (hbusy k hk.le).2 hk, ?after, ?wire⟩
  case after => exact Bool.eq_false_of_not_eq_true (mt (hbusy _ le_rfl).1 (lt_irrefl _))
  case wire => rw [hsteps _ le_rfl, emitted_txWire, hpos, hbuf]

/-- Settles O20: the accepted operation writes the frame to the start of tx_buf, from where TXE sends it. -/
theorem sentFrameOnWire : Obligations.SentFrameOnWire := by
  intro n s hwf hidle hn
  have hnot : ¬txBusy s = true := mt (txBusy_iff s).1 (Nat.not_lt.2 hidle)
  refine ⟨_, exec_txSend_built hnot hn, ?_⟩
  generalize ht : result _ _ _ (txBuild n s) = t
  have htx : t.tx = { buf := Memory.writeBytes s.tx.buf 0 (txFrame s n), len := 32 + n, pos := 0 } := by
    rw [← ht, result_tx, txBuild_tx]
  have henv : t.env = s.env := by rw [← ht, result_env, txBuild_env]
  rw [← txFrame_eq, ← txFrame_length s n, ← henv]
  have hlen : t.tx.len = (txFrame s n).length := by rw [htx, txFrame_length]
  have hpos : t.tx.pos = 0 := by rw [htx]
  have hbuf : Memory.bytes t.tx.buf 0 (txFrame s n).length = txFrame s n := by
    rw [htx, Memory.bytes_writeBytes hwf]
  exact txeSteps_sends_frame hlen hpos hbuf

/-! ## The frame being sent is a snapshot (46_transmit.md R354) -/

@[simp] theorem restart_tx (b : Byte) (s : State) : (restart b s).tx = s.tx := by
  rcases restart_cases b s with heq | ⟨_, _, heq⟩ <;> (rw [heq]; rfl)

@[simp] theorem deposit_tx (rc : Word) (s : State) : (deposit rc s).tx = s.tx := by
  rcases deposit_cases rc s with ⟨_, heq⟩ | ⟨_, _, heq⟩ | ⟨_, _, heq⟩ <;> rw [heq] <;> rfl

@[simp] theorem tmAccept_tx (rc : Word) (s : State) : (tmAccept rc s).tx = s.tx := by
  rcases tmAccept_cases rc s with ⟨_, heq⟩ | ⟨_, heq⟩ <;> rw [heq]
  rfl

@[simp] theorem frameEnd_tx (s : State) : (frameEnd s).tx = s.tx := by
  rcases frameEnd_cases s with heq | ⟨_, heq⟩ | ⟨_, _, heq⟩ | heq <;> rw [heq, clearFrame_tx]
  · exact event_tx _ s
  · exact deposit_tx _ s
  · exact tmAccept_tx _ s

@[simp] theorem classify_tx (s : State) : (classify s).tx = s.tx := by
  rcases classify_cases s with ⟨_, _, heq⟩ | ⟨_, _, heq | heq⟩ | ⟨_, _, heq | heq⟩ | ⟨_, _, heq⟩ | heq <;> rw [heq] <;> rfl

@[simp] theorem headerDone_tx (s : State) : (headerDone s).tx = s.tx := by
  rcases headerDone_cases s with ⟨_, heq⟩ | ⟨f, _, heq⟩ <;> rw [heq]
  · rfl
  · exact classify_tx (headerTaken f s)

/-- Transmit and receive share nothing but SYNC (46_transmit.md R355). -/
@[simp] theorem rxByte_tx (b : Byte) (s : State) : (rxByte b s).tx = s.tx := by
  cases hst : s.rx.state with
  | hunt =>
    rw [rxByte_hunt hst, huntByte]
    split <;> rfl
  | sync2 =>
    rw [rxByte_sync2 hst, sync2Byte]
    split
    · rfl
    · exact restart_tx b _
  | sync3 =>
    rw [rxByte_sync3 hst, sync3Byte]
    split
    · rfl
    · exact restart_tx b _
  | hdr =>
    rw [rxByte_hdr hst]
    by_cases hlast : s.rx.hcnt + 1 = 28
    · exact hdrByte_done hlast b ▸ headerDone_tx _
    · exact hdrByte_inside hlast b ▸ rfl
  | body =>
    rw [rxByte_body hst, bodyByte_eq]
    split
    · exact frameEnd_tx { s with rx := bodyTaken b s.rx }
    · rfl
  | discard =>
    rw [rxByte_discard hst, discardByte_eq]
    split <;> rfl

@[simp] theorem rxeStep_tx (s : State) : (rxeStep s).tx = s.tx := by
  rcases rxeStep_cases s with ⟨b, bs, _, _, heq⟩ | heq <;> rw [heq]
  exact rxByte_tx b { s with env := { s.env with rxStream := bs } }

@[simp] theorem writeReg_tx (r : Reg) (v : Word) (s : State) : (writeReg r v s).tx = s.tx := by
  cases r <;> rfl

/-- While a frame is being sent, every operation completes from a state with the same transmit engine: only TX_SEND and TX_ISSUE
write it, and both are refused. -/
theorem exec_finish_tx {s : State} (hbusy : txBusy s = true) (i : Instr) :
    ∃ c a t, exec i s = finish i c a t ∧ t.tx = s.tx := by
  cases i with
  | txSend n => exact ⟨_, _, s, exec_txSend_busy hbusy n, rfl⟩
  | txIssue n => exact ⟨_, _, s, exec_txIssue_busy hbusy n, rfl⟩
  | crcTxbody _ | hdrUnpack | slotArm _ | slotTake | tmPop | dtLookup _ =>
    simp only [exec, execCrcTxbody, execHdrUnpack, execSlotArm, execSlotTake, execTmPop, execDtLookup]
    split <;> exact ⟨_, _, _, rfl, rfl⟩
  | nop | crcInit | crcByte _ | crcHbuf | hdrPack | slotCancel | slotFlush | scanReset | cntClear =>
    exact ⟨_, _, _, rfl, rfl⟩

theorem runCommand_tx {w : Word} {s s' : State} (hbusy : txBusy s = true) (h : runCommand w s = .next s') :
    s'.tx = s.tx := by
  cases hdecode : decode w with
  | ok i =>
    obtain ⟨c, a, t, hexec, htx⟩ := exec_finish_tx hbusy i
    rw [runCommand_ok hdecode, hexec] at h
    cases h
    exact (result_tx _ c a t).trans htx
  | error e =>
    rw [runCommand_error hdecode] at h
    cases h
    exact result_tx _ _ _ s

/-- Settles O21: of the turns that are left, only an operation could touch the transmit engine, and none does while it is busy. -/
theorem sendingFrameIsSnapshot : Obligations.SendingFrameIsSnapshot := by
  intro t s s' hbusy htxe hreset h
  rcases runTurn_cases h with ⟨_, _, _, _, rfl⟩ | ⟨_, _, _, _, _, _, hcmd⟩ | ⟨_, _, v, _, _, _, rfl⟩ | ⟨_, rfl⟩ |
    ⟨ht, _⟩ | ⟨_, _, rfl⟩ | ⟨_, _, rfl⟩ | ⟨ht, _⟩
  · rfl
  · exact runCommand_tx hbusy hcmd
  · exact writeReg_tx _ v s
  · exact rxeStep_tx s
  · exact absurd ht htxe
  · rfl
  · rfl
  · exact absurd ht hreset

end Sys2Proof.Machine
end

section
/-! PROOFS of 47_control.md. The three control operations; then host writes: what each kind of register word reads after it is
written, that a write to one register reaches no other, and that every write but to CMD is such a write. -/

namespace Sys2Proof.Machine

/-! ## The control operations (47_control.md R370 to R372) -/

/-- Settles O36: the opcode byte alone is the operation, and it completes with OK. -/
theorem nopResult : Obligations.NopResult :=
  ⟨fun _ hopc => decode_of_opcode (i := .nop) hopc, fun _ => finish_ok (opc := 0x00#8) rfl 0 _⟩

/-- Settles O37: the opcode byte alone is the operation, and it completes with OK once the frame is cleared. -/
theorem scanResetResult : Obligations.ScanResetResult :=
  ⟨fun _ hopc => decode_of_opcode (i := .scanReset) hopc, fun s => finish_ok (opc := 0x60#8) rfl 0 (clearFrame s)⟩

/-- Settles O38: the opcode byte alone is the operation, and it completes with OK. -/
theorem cntClearResult : Obligations.CntClearResult :=
  ⟨fun _ hopc => decode_of_opcode (i := .cntClear) hopc, fun _ => finish_ok (opc := 0x61#8) rfl 0 _⟩

/-! ## The register words a write replaces (47_control.md R374) -/

theorem and_mask_and_mask (x m : Word) : x &&& m &&& m = x &&& m := by
  rw [BitVec.and_assoc, BitVec.and_self]

theorem hdrGet_hdrSet (f : HdrWords) (j k : Fin 6) (v : Word) :
    hdrGet (hdrSet f k v) j = if j = k then v else hdrGet f j := by
  fin_cases k <;> fin_cases j <;> rfl

/-- Two words of one window do not overlap. -/
theorem Memory.word_writeWord_window {m : Memory} (h : Memory.wf m = true) {j k : Nat} (hjk : j ≠ k) (v : Word) :
    Memory.word (Memory.writeWord m (4 * k) v) (4 * j) = Memory.word m (4 * j) :=
  Memory.word_writeWord_ne h _ _ v (by omega)

/-- Clearing bits of a mask leaves a word that has no bit in it. -/
theorem and_not_and_of_and_eq_zero {x m : Word} (h : x &&& m = 0#32) (v : Word) : x &&& ~~~(v &&& m) = x := by
  apply BitVec.eq_of_getLsbD_eq
  intro i hi
  have hbit : (x.getLsbD i && m.getLsbD i) = false := by
    rw [← BitVec.getLsbD_and, h, BitVec.getLsbD_zero]
  cases hx : x.getLsbD i with
  | false => simp [hx]
  | true =>
    have hm : m.getLsbD i = false := by simpa [hx] using hbit
    rw [BitVec.getLsbD_and, BitVec.getLsbD_not, BitVec.getLsbD_and, hx, hm, Bool.and_false]
    simp [hi]

theorem bitIf_and_stickyMask (b : Bool) {k : Nat} (hk : k < 8) : bitIf b k &&& stickyMask = 0#32 := by
  revert b k
  decide

/-- The level bits stand below the sticky bits (10_state.md R42, R43). -/
theorem levelBits_and_stickyMask (s : State) : levelBits s &&& stickyMask = 0#32 := by
  simp (disch := decide) only [levelBits, BitVec.and_or_distrib_right, bitIf_and_stickyMask, BitVec.or_zero]

/-- STATUS loses the sticky bits written as 1 and nothing else (60_exceptions.md R405). -/
theorem status_clearSticky (v : Word) (s : State) : status (clearSticky v s) = status s &&& ~~~(v &&& stickyMask) := by
  have hlevel : levelBits (clearSticky v s) = levelBits s := rfl
  rw [status, status, hlevel, clearSticky_sticky, BitVec.and_or_distrib_right,
    and_not_and_of_and_eq_zero (levelBits_and_stickyMask s)]
  ac_rfl

/-! ## What a write leaves of the state (47_control.md R374) -/

@[simp] theorem writeReg_env (r : Reg) (v : Word) (s : State) : (writeReg r v s).env = s.env := by
  cases r <;> rfl

/-- A write reaches no register but its own. -/
theorem readReg_writeReg_ne {s : State} (h : BlockOk s) {q r : Reg} (hqr : q ≠ r) (v : Word) :
    readReg q (writeReg r v s) = readReg q s := by
  cases r with
  | ctrl =>
    cases q with
    | ctrl => exact absurd rfl hqr
    | _ => rfl
  | status =>
    cases q with
    | status => exact absurd rfl hqr
    | _ => rfl
  | irqEn =>
    cases q with
    | irqEn => exact absurd rfl hqr
    | _ => rfl
  | sync =>
    cases q with
    | sync => exact absurd rfl hqr
    | _ => rfl
  | crcAcc =>
    cases q with
    | crcAcc => exact absurd rfl hqr
    | _ => rfl
  | hbuf k =>
    cases q with
    | hbuf j => exact Memory.word_writeWord_window (Memory.ok_iff.1 h.hbuf).1 (fun hjk => hqr (congrArg _ (Fin.ext hjk))) v
    | _ => rfl
  | hf k =>
    cases q with
    | hf j => exact (hdrGet_hdrSet s.hf j k v).trans (if_neg fun hjk => hqr (congrArg _ hjk))
    | _ => rfl
  | dt k =>
    cases q with
    | dt j =>
      have hkj : k.val ≠ j.val := fun hkj => hqr (congrArg _ (Fin.ext hkj.symm))
      exact congrArg (· &&& dtMask) (Vector.getElem_set_ne k.isLt j.isLt hkj)
    | _ => rfl
  | txBody k =>
    cases q with
    | txBody j => exact Memory.word_writeWord_window (Memory.ok_iff.1 h.txBody).1 (fun hjk => hqr (congrArg _ (Fin.ext hjk))) v
    | _ => rfl
  | _ => rfl

/-! ## Host writes (20_memory.md R101, 47_control.md R374) -/

/-- CMD stands at word 5 of the map and nowhere else: every other branch names another register (10_state.md R33). -/
theorem regAtWord_ne_cmd {w : Nat} (hw : w ≠ 5) : regAtWord w ≠ .cmd := by
  simp [regAtWord, ite_eq_iff, dite_eq_iff, hw]

/-- An aligned write of a whole word anywhere but to CMD stores into the register there. -/
theorem hostWrite_store {off : Offset} (haligned : off.toNat % 4 = 0) (hcmd : off ≠ 0x014#12) (v : Word) (s : State) :
    hostWrite off 4 v s = .next (writeReg (regAt off) v s) :=
  (checkAccess_aligned haligned _).trans
    (if_neg (regAtWord_ne_cmd (mt (offset_eq_iff haligned 0x014#12 (by decide)).2 hcmd)))

/-- Settles O56: the write is a store into one register, which reads the written value on its writable bits. -/
theorem writeReachesItsRegisterOnly : Obligations.WriteReachesItsRegisterOnly := by
  intro off v s hinv haligned hcmd
  have hblock : BlockOk s := hinv.block
  refine ⟨_, hostWrite_store haligned hcmd v s, writeReg_rx _ v s, writeReg_tx _ v s, writeReg_env _ v s,
    fun q hq => readReg_writeReg_ne hblock hq v, ?_⟩
  cases regAt off with
  | ctrl => exact and_mask_and_mask v ctrlMask
  | status => exact status_clearSticky v s
  | irqEn => exact and_mask_and_mask v irqMask
  | hbuf k => exact Memory.word_writeWord (Memory.ok_iff.1 hblock.hbuf).1 _ v
  | hf k => exact (hdrGet_hdrSet s.hf k k v).trans (if_pos rfl)
  | dt k =>
    exact (congrArg (· &&& dtMask) (Vector.getElem_set_self k.isLt)).trans (and_mask_and_mask v dtMask)
  | txBody j => exact Memory.word_writeWord (Memory.ok_iff.1 hblock.txBody).1 _ v
  | _ => rfl

end Sys2Proof.Machine
end

section
/-! PROOFS of 60_exceptions.md. What a receive step that raises a given event, or none, may write, said once for every part of the
receive engine; then the interrupt line bit by bit. -/

namespace Sys2Proof.Machine

/-! ## What a receive step writes, and which event it raises (60_exceptions.md R406, R422) -/

/-- The state after an event, or after none. -/
def raised (e : Option Event) (s : State) : State :=
  match e with
  | none => s
  | some x => event x s

/-- From `s` to `t` the receive engine writes nothing outside its own columns of R422, and raises `e`: of the sticky bits and
counters, the event writes all but the count of frames. -/
structure Receives (e : Option Event) (s t : State) : Prop where
  notOpErr : e ≠ some .opErr
  sticky : t.sticky = (raised e s).sticky
  cnt : t.cnt = { (raised e s).cnt with frames := t.cnt.frames }
  columns : t = { s with
    sticky := t.sticky, rh := t.rh, slotTag := t.slotTag, slotLen := t.slotLen, slotResp := t.slotResp, slotCrc := t.slotCrc,
    slotText := t.slotText, slotValid := t.slotValid, tmFifo := t.tmFifo, tmNextSeq := t.tmNextSeq, cnt := t.cnt, rx := t.rx }

theorem Event.count_frames (e : Event) (c : Counters) (n : Word) :
    e.count { c with frames := n } = { e.count c with frames := n } := by
  cases e <;> rfl

theorem Receives.refl (s : State) : Receives none s s := ⟨nofun, rfl, rfl, rfl⟩

section
variable {e : Option Event} {s t : State}

theorem Receives.withRx (h : Receives e s t) (r : Rx) : Receives e s { t with rx := r } :=
  ⟨h.notOpErr, h.sticky, h.cnt, congrArg (fun u : State => { u with rx := r }) h.columns⟩

theorem Receives.clearFrame (h : Receives e s t) : Receives e s (clearFrame t) := h.withRx _

theorem Receives.restart (h : Receives e s t) (b : Byte) : Receives e s (restart b t) := by
  rcases restart_cases b t with heq | ⟨_, _, heq⟩ <;> rw [heq]
  · exact h.clearFrame
  · exact h.clearFrame.withRx _

/-- An event is raised only where none was raised before. -/
theorem Receives.event (h : Receives none s t) (x : Event) (hx : x ≠ .opErr := by decide) : Receives (some x) s (event x t) where
  notOpErr := fun heq => hx (Option.some.inj heq)
  sticky := congrArg (· ||| x.mask) h.sticky
  cnt := by
    have hcount : x.count t.cnt = { x.count s.cnt with frames := t.cnt.frames } :=
      (congrArg x.count h.cnt).trans (x.count_frames s.cnt _)
    show x.count t.cnt = { x.count s.cnt with frames := (x.count t.cnt).frames }
    rw [hcount]
  columns := congrArg (Machine.event x) h.columns

theorem Receives.headerTaken (h : Receives none s t) (f : HdrWords) : Receives none s (headerTaken f t) where
  notOpErr := nofun
  sticky := h.sticky
  cnt := congrArg (fun c : Counters => { c with frames := t.cnt.frames + 1 }) h.cnt
  columns := congrArg (Machine.headerTaken f) h.columns

/-- LEN_ERR and UNREC are raised on different branches. -/
theorem Receives.classify (h : Receives none s t) : ∃ e, Receives e s (classify t) := by
  rcases classify_cases t with ⟨_, _, heq⟩ | ⟨_, _, heq | heq⟩ | ⟨_, _, heq | heq⟩ | ⟨_, _, heq⟩ | heq <;> rw [heq]
  · exact ⟨_, h.withRx _⟩
  · exact ⟨_, h.withRx _⟩
  · exact ⟨_, (h.withRx _).event .lenErr⟩
  · exact ⟨_, (h.withRx _).event .lenErr⟩
  · exact ⟨_, (h.withRx _).event .unrec⟩
  · exact ⟨_, h.withRx _⟩
  · exact ⟨_, h.clearFrame.event .unrec⟩

/-- FRAMING is raised only where nothing is classified. -/
theorem Receives.headerDone (h : Receives none s t) : ∃ e, Receives e s (headerDone t) := by
  rcases headerDone_cases t with ⟨_, heq⟩ | ⟨f, _, heq⟩ <;> rw [heq]
  · exact ⟨_, (h.event .framing).clearFrame⟩
  · exact (h.headerTaken f).classify

theorem Receives.heldOrder (h : Receives none s t) (rc : Word) : Receives none s (heldOrder rc t) :=
  ⟨h.notOpErr, h.sticky, h.cnt, congrArg (Machine.heldOrder rc) h.columns⟩

/-- ORDER_OVERRUN is raised where the slot is full, TEXT_TRUNC only where it is not. -/
theorem Receives.deposit (h : Receives none s t) (rc : Word) : ∃ e, Receives e s (deposit rc t) := by
  rcases deposit_cases rc t with ⟨_, heq⟩ | ⟨_, _, heq⟩ | ⟨_, _, heq⟩ <;> rw [heq]
  · exact ⟨_, h.event .orderOverrun⟩
  · exact ⟨_, (h.heldOrder rc).event .textTrunc⟩
  · exact ⟨_, h.heldOrder rc⟩

theorem Receives.withQueue (h : Receives e s t) (q : List TmEntry) (n : Word) :
    Receives e s { t with tmFifo := q, tmNextSeq := n } :=
  ⟨h.notOpErr, h.sticky, h.cnt, congrArg (fun u : State => { u with tmFifo := q, tmNextSeq := n }) h.columns⟩

theorem Receives.tmAccept (h : Receives none s t) (rc : Word) : ∃ e, Receives e s (tmAccept rc t) := by
  rcases tmAccept_cases rc t with ⟨_, heq⟩ | ⟨_, heq⟩ <;> rw [heq]
  · exact ⟨_, h.event .tmOverflow⟩
  · exact ⟨_, h.withQueue _ _⟩

/-- CRC_ERR is raised only where nothing is delivered. -/
theorem Receives.frameEnd (h : Receives none s t) : ∃ e, Receives e s (frameEnd t) := by
  rcases frameEnd_cases t with heq | ⟨_, heq⟩ | ⟨_, _, heq⟩ | heq <;> rw [heq]
  · exact ⟨_, (h.event .crcErr).clearFrame⟩
  · exact (h.deposit _).imp fun _ => Receives.clearFrame
  · exact (h.tmAccept _).imp fun _ => Receives.clearFrame
  · exact ⟨_, h.clearFrame⟩

end

theorem rxByte_receives (b : Byte) (s : State) : ∃ e, Receives e s (rxByte b s) := by
  have h : Receives none s s := .refl s
  cases hst : s.rx.state with
  | hunt =>
    rw [rxByte_hunt hst, huntByte]
    split
    · exact ⟨_, h.withRx _⟩
    · exact ⟨_, h.event .desync⟩
  | sync2 =>
    rw [rxByte_sync2 hst, sync2Byte]
    split
    · exact ⟨_, h.withRx _⟩
    · exact ⟨_, (h.event .desync).restart b⟩
  | sync3 =>
    rw [rxByte_sync3 hst, sync3Byte]
    split
    · exact ⟨_, h.withRx _⟩
    · exact ⟨_, (h.event .desync).restart b⟩
  | hdr =>
    rw [rxByte_hdr hst]
    by_cases hlast : s.rx.hcnt + 1 = 28
    · rw [hdrByte_done hlast]
      exact (h.withRx _).headerDone
    · rw [hdrByte_inside hlast]
      exact ⟨_, h.withRx _⟩
  | body =>
    rw [rxByte_body hst, bodyByte_eq]
    split
    · exact (h.withRx _).frameEnd
    · exact ⟨_, h.withRx _⟩
  | discard =>
    rw [rxByte_discard hst, discardByte_eq]
    split
    · exact ⟨_, (h.withRx _).clearFrame⟩
    · exact ⟨_, h.withRx _⟩

/-- Settles O50: each of these fields is outside the receive engine's columns. -/
theorem receiveStepFrame : Obligations.ReceiveStepFrame := by
  intro b s
  obtain ⟨_, h⟩ := rxByte_receives b s
  have field {α : Type} (f : State → α) := congrArg f h.columns
  exact ⟨field State.ctrl, field State.irqEn, field State.sync, field State.crcAcc, field State.hbuf, field State.hf,
    field State.txBody, field State.dt, field State.pending, field State.slotExpect, field State.tx, field State.result,
    field State.env⟩

/-- Settles O51: the parts of a receive step that can raise an event exclude one another. -/
theorem atMostOneEventPerByte : Obligations.AtMostOneEventPerByte := by
  intro b s
  obtain ⟨e, h⟩ := rxByte_receives b s
  exact ⟨e, h.sticky, h.cnt, h.notOpErr⟩

/-! ## The interrupt line (60_exceptions.md R411) -/

/-- The bits of IRQ_EN that exist (10_state.md R44). -/
theorem getLsbD_irqMask (k : Nat) : irqMask.getLsbD k = true ↔ k ∈ [0, 2, 8, 9, 10, 11, 12, 13, 14, 15, 16] := by
  by_cases hk : k < 32
  · revert k
    decide
  · rw [BitVec.getLsbD_of_ge _ _ (by omega)]
    simp
    omega

theorem ne_zero_iff_getLsbD {n : Nat} (x : BitVec n) : x ≠ 0#n ↔ ∃ k, x.getLsbD k = true := by
  simp [BitVec.zero_iff_eq_false]

/-- Settles O52: a bit of `STATUS & IRQ_EN & irqMask` is 1 exactly where bits of STATUS and of IRQ_EN as it reads are. -/
theorem interruptLine : Obligations.InterruptLine := by
  intro s
  have hbit : ∀ k, (status s &&& s.irqEn &&& irqMask).getLsbD k = true ↔
      k ∈ [0, 2, 8, 9, 10, 11, 12, 13, 14, 15, 16] ∧
        (readReg .status s).getLsbD k = true ∧ (readReg .irqEn s).getLsbD k = true := by
    intro k
    simp only [readReg, BitVec.getLsbD_and, Bool.and_eq_true, ← getLsbD_irqMask]
    tauto
  rw [irq, bne_iff_ne, ne_zero_iff_getLsbD]
  exact exists_congr hbit

end Sys2Proof.Machine
end

section
/-! PROOFS of 70_reset_and_hazards.md. Where an attempt to match the sync marker goes when the bytes match; then a reset turn. -/

namespace Sys2Proof.Machine

/-! ## An attempt in SYNC2 (42_frame_scanner.md R224, R225, 70_reset_and_hazards.md R445) -/

theorem rxByte_sync2_match {s : State} (hst : s.rx.state = .sync2) :
    rxByte (sync1 s) s = takeSync 1 .sync3 (sync1 s) s :=
  (rxByte_sync2 hst _).trans (if_pos rfl)

theorem rxByte_sync3_match {s : State} (hst : s.rx.state = .sync3) :
    rxByte (sync2 s) s = takeSync 2 .hdr (sync2 s) s :=
  (rxByte_sync3 hst _).trans (if_pos rfl)

/-- The bytes that complete the marker carry an attempt on into HDR, whatever RX_EN is. -/
theorem rxByte_marker_reaches_hdr {s : State} (hst : s.rx.state = .sync2) :
    (rxByte (sync1 s) s).rx.state = .sync3 ∧ (rxByte (sync2 s) (rxByte (sync1 s) s)).rx.state = .hdr := by
  rw [rxByte_sync2_match hst]
  exact ⟨rfl, congrArg (·.rx.state) (rxByte_sync3_match (s := takeSync 1 .sync3 (sync1 s) s) rfl)⟩

/-- RX_EN = 0 after the first sync byte, 0xAA, is taken. -/
def oneSyncByteTaken : State := { State.reset with rx := .atHeader .sync2 [(0, 0xAA#8)] 1 }

theorem Inv.oneSyncByteTaken : Inv oneSyncByteTaken :=
  ⟨by decide, by decide, by decide, by decide, by decide⟩

/-- Refutes O49: from SYNC2 with RX_EN = 0 the bytes 0x44 and 0x12 complete the marker, and the engine is in HDR. -/
theorem not_syncStatesStopWithinTwoBytes : ¬ Obligations.SyncStatesStopWithinTwoBytes := by
  intro h
  obtain ⟨hsync3, hhdr⟩ : (rxByte 0x44#8 oneSyncByteTaken).rx.state = .sync3 ∧
      (rxByte 0x12#8 (rxByte 0x44#8 oneSyncByteTaken)).rx.state = .hdr :=
    rxByte_marker_reaches_hdr (s := oneSyncByteTaken) rfl
  rcases h 0x44#8 0x12#8 oneSyncByteTaken .oneSyncByteTaken rfl (.inl rfl) with hhunt | hhunt | hhunt
  · exact ScanState.noConfusion hhunt
  · exact ScanState.noConfusion (hsync3.symm.trans hhunt)
  · exact ScanState.noConfusion (hhdr.symm.trans hhunt)

/-! ## Reset (70_reset_and_hazards.md R440, R441) -/

/-- Settles O58: a reset turn is the block's reset, which keeps the environment only. -/
theorem resetSetsEverything : Obligations.ResetSetsEverything :=
  fun _ => rfl

end Sys2Proof.Machine
end
